-- ==== Sys2Proof/Word.lean ====
section
/-! DEFINITION. The words of the LCP protocol engine: bytes, event words, report words, vector registers
(spec/00_scope.md R4, section 5; spec/30_encoding.md R101; spec/60_exceptions.md R320). Only types stand here:
every computation on them is in Decode.lean and Machine/. -/

namespace Sys2Proof

/-- One byte of a frame. -/
abbrev Byte := BitVec 8

/-- The 32-bit input word of one step (R101). -/
abbrev EventWord := BitVec 32

/-- A 32-bit report word: CODE in [31:24], INFO in [23:0] (R320). -/
abbrev ReportWord := BitVec 32

/-- A 32-bit word of the host read space (R72). -/
abbrev ReadWord := BitVec 32

/-- A 32-bit saturating counter (R5). -/
abbrev Counter := BitVec 32

/-- A timeout configuration register, 24 bits, in ticks (R5). -/
abbrev Ticks := BitVec 24

/-- The INFO field of a report word (R320). -/
abbrev Info := BitVec 24

/-- A 128-bit vector register; point i is bit i - 1 (section 5 of 00_scope.md). -/
abbrev VecReg := BitVec 128

end Sys2Proof
end

