-- ==== Sys2Proof/Syntax.lean ====
section
/-! DEFINITION. The instructions: one constructor per row of spec/opcode_table.json. Thirteen event words and three
reserved opcodes (spec/30_encoding.md R102), and the three wire frames (spec/40_frame_codec.md R137 to R139),
which the table calls frame headers. -/

namespace Sys2Proof

/-- The five transport faults RXF names, in the order of their KIND values 0 to 4 (R106). KIND 5 to 7 is no fault
kind: the decoder rejects it (R108). -/
inductive TransportFault where
  | rxOverflow
  | overrun
  | parity
  | framing
  | txFull
deriving DecidableEq, Repr

/-- Who delivers an event word (R102, column "source"; R84). -/
inductive Source where
  | transport
  | host
  | tickSource
deriving DecidableEq, Repr

/-- The instructions. Operand fields have the widths of R103; a frame's fields are its payload and checksum bytes
as received (R90), good or bad. -/
inductive Instr where
  /-- RXB: one received byte; SOP marks the first byte of a packet (R141). -/
  | rxb (sop : Bool) (byte : Byte)
  /-- RXF: a transport fault (R252). -/
  | rxf (kind : TransportFault)
  /-- LIDLE: line-break to line-idle (R250). -/
  | lidle
  /-- LDOWN: link down (R251). -/
  | ldown
  /-- TICK: one unit of time (R236). -/
  | tick
  /-- SETBIT: a local change of one point (R200). -/
  | setbit (state : Bool) (index : BitVec 8)
  /-- WRSTG: write one byte of the staging vector (R201). -/
  | wrstg (k : BitVec 4) (byte : Byte)
  /-- LOADALL: a local full-state change from STG (R202). -/
  | loadall (n : BitVec 5)
  /-- CFG: write one configuration register (R280). -/
  | cfg (reg : BitVec 4) (value : BitVec 24)
  /-- RESET: link reset (R281). -/
  | reset
  /-- CLOSE: explicit link teardown (R282). -/
  | close
  /-- TXTAKE: the transport takes the oldest queued frame (R286). -/
  | txtake
  /-- RPTTAKE: the host takes the oldest report word (R287). -/
  | rpttake
  /-- RESERVED_OP_0x0: reserved opcode 0x0; the other 28 bits are ignored (R105, R290). -/
  | reservedOp0 (any : BitVec 28)
  /-- RESERVED_OP_0xE: reserved opcode 0xE (R105, R290). -/
  | reservedOpE (any : BitVec 28)
  /-- RESERVED_OP_0xF: reserved opcode 0xF (R105, R290). -/
  | reservedOpF (any : BitVec 28)
  /-- RECALL: a complete frame with header 0x80 (R137). -/
  | recallFrame (checksum : Byte)
  /-- UPDATE: a complete frame with header 0xE1 (R138); the payload byte holds the point field and the state. -/
  | updateFrame (payload : Byte) (checksum : Byte)
  /-- ALL: a complete frame of type 001 (R139); LEN is the payload's length, whatever the session. -/
  | allFrame (payload : List Byte) (checksum : Byte)
deriving DecidableEq, Repr

/-- The source of each event word (R102). A reserved opcode has none; a frame is the peer's, and its bytes come
from the transport. -/
def Instr.source : Instr → Option Source
  | .rxb _ _ => some .transport
  | .rxf _ => some .transport
  | .lidle => some .transport
  | .ldown => some .transport
  | .tick => some .tickSource
  | .setbit _ _ => some .host
  | .wrstg _ _ => some .host
  | .loadall _ => some .host
  | .cfg _ _ => some .host
  | .reset => some .host
  | .close => some .host
  | .txtake => some .transport
  | .rpttake => some .host
  | .reservedOp0 _ => none
  | .reservedOpE _ => none
  | .reservedOpF _ => none
  | .recallFrame _ => some .transport
  | .updateFrame _ _ => some .transport
  | .allFrame _ _ => some .transport

end Sys2Proof
end

