-- ==== Sys2Proof/WellFormed.lean ====
section
/-! DEFINITION. Which terms of Instr have an encoding. The operand types carry every bound of spec/30_encoding.md R103
but one: the payload of an ALL frame is a list, and the 5-bit LEN field counts at most 31 bytes (R90, R93). -/

namespace Sys2Proof

/-- The instruction has an encoding. -/
def Instr.wellFormed : Instr → Bool
  | .rxb _ _ => true
  | .rxf _ => true
  | .lidle => true
  | .ldown => true
  | .tick => true
  | .setbit _ _ => true
  | .wrstg _ _ => true
  | .loadall _ => true
  | .cfg _ _ => true
  | .reset => true
  | .close => true
  | .txtake => true
  | .rpttake => true
  | .reservedOp0 _ => true
  | .reservedOpE _ => true
  | .reservedOpF _ => true
  | .recallFrame _ => true
  | .updateFrame _ _ => true
  | .allFrame payload _ => decide (payload.length ≤ 31)

end Sys2Proof
end

