-- ==== Sys2Proof/Decode.lean ====
section
/-! DEFINITION. Decoding and encoding of both formats of spec/opcode_table.json: the 32-bit event word
(spec/30_encoding.md R101 to R108) and the wire frame (R90 to R99). Decoding is total and rejects by name. -/

namespace Sys2Proof

/-- The two formats of the table. -/
inductive Encoded where
  | event (w : EventWord)
  | frame (bytes : List Byte)
deriving DecidableEq, Repr

/-- Why an event word is no instruction (R104, R106, R108). -/
inductive EventReject where
  /-- A defined opcode with a reserved bit set (R104): the step reports ILLEGAL_COMMAND, reason 1. -/
  | reservedBits (op : BitVec 4)
  /-- RXF with KIND 5 to 7 (R106): the step reports ILLEGAL_COMMAND, reason 2. -/
  | badKind
deriving DecidableEq, Repr

/-- Why a byte list is no frame row of the table. -/
inductive FrameReject where
  /-- No byte at all, so no header (R135, the empty list). -/
  | noHeader
  /-- The header's TYPE is not 001, 100 or 111 (R92). -/
  | invalidType
  /-- The header's LEN fits no row of its type, or the byte count is not LEN + 2 (R93, R99). -/
  | invalidLength
deriving DecidableEq, Repr

/-- Why the decoder gives no instruction. -/
inductive Reject where
  | event (reason : EventReject)
  | frame (reason : FrameReject)
deriving DecidableEq, Repr

/-! ## The header byte (R91, R132) -/

/-- `hdr_type(H) = H[7:5]` (R132). -/
def hdrType (h : Byte) : BitVec 3 := h.extractLsb' 5 3

/-- `hdr_len(H) = H[4:0]` (R132). -/
def hdrLen (h : Byte) : BitVec 5 := h.extractLsb' 0 5

/-- `pack_header(t, n) = (t << 5) | n` (R132). -/
def packHeader (t : BitVec 3) (n : BitVec 5) : Byte := (t.setWidth 8 <<< 5) ||| n.setWidth 8

/-- The 3-bit type codes of R92. -/
def typeAll : BitVec 3 := 0b001

/-- Recall, `100` (R92). -/
def typeRecall : BitVec 3 := 0b100

/-- Update, `111` (R92). -/
def typeUpdate : BitVec 3 := 0b111

/-! ## The event word (R101, R102) -/

/-- The KIND values of RXF (R106). -/
def TransportFault.code : TransportFault → BitVec 3
  | .rxOverflow => 0
  | .overrun => 1
  | .parity => 2
  | .framing => 3
  | .txFull => 4

/-- KIND 5 to 7 names no fault (R106). -/
def TransportFault.ofCode (k : BitVec 3) : Option TransportFault :=
  match k.toNat with
  | 0 => some .rxOverflow
  | 1 => some .overrun
  | 2 => some .parity
  | 3 => some .framing
  | 4 => some .txFull
  | _ => none

/-- `OP = W[31:28]` (R101). -/
def opField (w : EventWord) : BitVec 4 := w.extractLsb' 28 4

/-- The bits R102 marks reserved for an opcode. The reserved opcodes 0x0, 0xE and 0xF and CFG have none. -/
def reservedMask (op : BitVec 4) : EventWord :=
  match op.toNat with
  | 0x1 => 0x0FFFFE00
  | 0x2 => 0x0FFFFFF8
  | 0x3 => 0x0FFFFFFF
  | 0x4 => 0x0FFFFFFF
  | 0x5 => 0x0FFFFFFF
  | 0x6 => 0x0FFFFE00
  | 0x7 => 0x0FFFF000
  | 0x8 => 0x0FFFFFE0
  | 0x9 => 0x00000000
  | 0xA => 0x0FFFFFFF
  | 0xB => 0x0FFFFFFF
  | 0xC => 0x0FFFFFFF
  | 0xD => 0x0FFFFFFF
  | _ => 0x00000000

/-- `reserved_bits(op, W)` (R291). -/
def reservedBitsOf (w : EventWord) : EventWord := w &&& reservedMask (opField w)

/-- The instruction of a word by its opcode, operand fields read as R102 places them. -/
def decodeFields (w : EventWord) : Except EventReject Instr :=
  match (opField w).toNat with
  | 0x0 => .ok (.reservedOp0 (w.extractLsb' 0 28))
  | 0x1 => .ok (.rxb (w.getLsbD 8) (w.extractLsb' 0 8))
  | 0x2 =>
    match TransportFault.ofCode (w.extractLsb' 0 3) with
    | some k => .ok (.rxf k)
    | none => .error .badKind
  | 0x3 => .ok .lidle
  | 0x4 => .ok .ldown
  | 0x5 => .ok .tick
  | 0x6 => .ok (.setbit (w.getLsbD 8) (w.extractLsb' 0 8))
  | 0x7 => .ok (.wrstg (w.extractLsb' 8 4) (w.extractLsb' 0 8))
  | 0x8 => .ok (.loadall (w.extractLsb' 0 5))
  | 0x9 => .ok (.cfg (w.extractLsb' 24 4) (w.extractLsb' 0 24))
  | 0xA => .ok .reset
  | 0xB => .ok .close
  | 0xC => .ok .txtake
  | 0xD => .ok .rpttake
  | 0xE => .ok (.reservedOpE (w.extractLsb' 0 28))
  | _ => .ok (.reservedOpF (w.extractLsb' 0 28))

/-- The decoder of an event word, in the priority of R108: reserved opcode, reserved bit, KIND. A reserved opcode
has no reserved bits, so its row is reached whatever its other bits are. -/
def decodeEvent (w : EventWord) : Except EventReject Instr :=
  if reservedBitsOf w ≠ 0 then .error (.reservedBits (opField w)) else decodeFields w

/-! ## The wire frame (R90 to R99) -/

/-- The row of the table a complete frame belongs to, by its header and byte count alone. What the checksum and the
session make of it is the row's meaning (R135, `codecDecode`). -/
def decodeFrameRow (bytes : List Byte) : Except FrameReject Instr :=
  match bytes with
  | [] => .error .noHeader
  | h :: rest =>
    if hdrType h = typeRecall then
      match rest with
      | [c] => if hdrLen h = 0 then .ok (.recallFrame c) else .error .invalidLength
      | _ => .error .invalidLength
    else if hdrType h = typeUpdate then
      match rest with
      | [u, c] => if hdrLen h = 1 then .ok (.updateFrame u c) else .error .invalidLength
      | _ => .error .invalidLength
    else if hdrType h = typeAll then
      if rest.length = (hdrLen h).toNat + 1 then
        .ok (.allFrame (rest.take (hdrLen h).toNat) (rest.getLastD 0))
      else .error .invalidLength
    else .error .invalidType

/-- The decoder: total, rejecting by name. -/
def decode : Encoded → Except Reject Instr
  | .event w =>
    match decodeEvent w with
    | .ok i => .ok i
    | .error e => .error (.event e)
  | .frame bytes =>
    match decodeFrameRow bytes with
    | .ok i => .ok i
    | .error e => .error (.frame e)

/-! ## The encoder, from the same tables (R90, R91, R102) -/

/-- The opcode in W[31:28], every other bit 0 (R101). -/
def opWord (op : BitVec 4) : EventWord := op.setWidth 32 <<< 28

/-- A 1-bit operand at bit 8: SOP and STATE (R102). -/
def flagField (b : Bool) : EventWord := (BitVec.ofBool b).setWidth 32 <<< 8

/-- RXB: [8] SOP, [7:0] BYTE (R102). -/
def rxbWord (sop : Bool) (b : Byte) : EventWord := opWord 0x1 ||| flagField sop ||| b.setWidth 32

/-- RXF: [2:0] KIND (R102). -/
def rxfWord (kind : BitVec 3) : EventWord := opWord 0x2 ||| kind.setWidth 32

/-- SETBIT: [8] STATE, [7:0] INDEX (R102). -/
def setbitWord (state : Bool) (index : BitVec 8) : EventWord :=
  opWord 0x6 ||| flagField state ||| index.setWidth 32

/-- WRSTG: [11:8] K, [7:0] BYTE (R102). -/
def wrstgWord (k : BitVec 4) (b : Byte) : EventWord :=
  opWord 0x7 ||| (k.setWidth 32 <<< 8) ||| b.setWidth 32

/-- LOADALL: [4:0] N (R102). -/
def loadallWord (n : BitVec 5) : EventWord := opWord 0x8 ||| n.setWidth 32

/-- CFG: [27:24] REG, [23:0] VALUE (R102). -/
def cfgWord (reg : BitVec 4) (value : BitVec 24) : EventWord :=
  opWord 0x9 ||| (reg.setWidth 32 <<< 24) ||| value.setWidth 32

/-- A reserved opcode with its ignored bits [27:0] (R105). -/
def reservedWord (op : BitVec 4) (any : BitVec 28) : EventWord := opWord op ||| any.setWidth 32

/-- The encoding of an instruction: fields as R102 lays them out, every reserved bit 0; for a frame its bytes in wire
order (R74, R90). -/
def encode : Instr → Encoded
  | .rxb sop byte => .event (rxbWord sop byte)
  | .rxf kind => .event (rxfWord kind.code)
  | .lidle => .event (opWord 0x3)
  | .ldown => .event (opWord 0x4)
  | .tick => .event (opWord 0x5)
  | .setbit state index => .event (setbitWord state index)
  | .wrstg k byte => .event (wrstgWord k byte)
  | .loadall n => .event (loadallWord n)
  | .cfg reg value => .event (cfgWord reg value)
  | .reset => .event (opWord 0xA)
  | .close => .event (opWord 0xB)
  | .txtake => .event (opWord 0xC)
  | .rpttake => .event (opWord 0xD)
  | .reservedOp0 any => .event (reservedWord 0x0 any)
  | .reservedOpE any => .event (reservedWord 0xE any)
  | .reservedOpF any => .event (reservedWord 0xF any)
  | .recallFrame c => .frame [packHeader typeRecall 0, c]
  | .updateFrame u c => .frame [packHeader typeUpdate 1, u, c]
  | .allFrame p c => .frame (packHeader typeAll (BitVec.ofNat 5 p.length) :: (p ++ [c]))

/-! ## The table's words -/

/-- The bytes of a frame whose bits are `w`, bit 0 the least significant bit of its first byte; its length is the
header's LEN + 2 (R99), and every bit from `nbits` up is 0. -/
def frameOfTableWord (nbits w : Nat) : List Byte :=
  let v := w % 2 ^ nbits
  (List.range ((hdrLen (BitVec.ofNat 8 v)).toNat + 2)).map fun k => BitVec.ofNat 8 (v >>> (8 * k))

/-- The encoding whose bits are `w`: 32 bits are an event word, a shorter row is a frame's first byte. -/
def encodedOfTableWord (nbits w : Nat) : Encoded :=
  if nbits = 32 then .event (BitVec.ofNat 32 w) else .frame (frameOfTableWord nbits w)

/-- The instruction the decoder reads from a word of the opcode table. -/
def decodeTableWord (nbits w : Nat) : Option Instr :=
  match decode (encodedOfTableWord nbits w) with
  | .ok i => some i
  | .error _ => none

end Sys2Proof
end

