-- ==== Sys2Proof/Config.lean ====
section
/-! DEFINITION. What an implementation fixes: the named parameters of spec/00_scope.md R6, which the spec leaves open.
They are held in State as plain data (notes/assumptions/2.md), so a statement about every state holds for every
value of them; only the machine `Sys2Proof.core` starts from the values named here. -/

namespace Sys2Proof

/-- The side of the link the block plays: CFG_ROLE, 1 bit, 0 = Controller, 1 = Station (R43). -/
inductive Role where
  | controller
  | station
deriving DecidableEq, Repr

/-- The parameters of R6. A depth of `none` is "unbounded". -/
structure Params where
  /-- `TICKS_PER_SECOND`, at least 1. -/
  ticksPerSecond : Nat
  /-- `TXQ_DEPTH`, in frames, at least 1 or unbounded. -/
  txqDepth : Option Nat
  /-- `RPTQ_DEPTH`, in report words, at least 1 or unbounded. -/
  rptqDepth : Option Nat
  /-- `RST_ROLE`. -/
  rstRole : Role
  /-- `RST_LINKTO`. -/
  rstLinkto : Ticks
  /-- `RST_POLLTO`. -/
  rstPollto : Ticks
  /-- `RST_RESPTO`. -/
  rstRespto : Ticks
  /-- `RST_RETRY`. -/
  rstRetry : BitVec 8
  /-- `RST_GAPADJ`. -/
  rstGapadj : BitVec 16
deriving DecidableEq, Repr

/-- The constraints R6 puts on the parameters that their types do not already carry. -/
def Params.wf (p : Params) : Bool :=
  decide (1 ≤ p.ticksPerSecond) && (p.txqDepth.all fun d => decide (1 ≤ d)) &&
    (p.rptqDepth.all fun d => decide (1 ≤ d))

/-- The parameter values of `Sys2Proof.core`: the common start state of spec/95_test_vectors.md section 0.
DESIGN CHOICE, unsafe (notes/assumptions/1.md): the spec leaves every one of them open. -/
def Config.params : Params where
  ticksPerSecond := 1
  txqDepth := some 4
  rptqDepth := some 64
  rstRole := .controller
  rstLinkto := 3
  rstPollto := 10
  rstRespto := 4
  rstRetry := 2
  rstGapadj := 0

end Sys2Proof
end

