-- ==== Sys2Proof/Machine/State.lean ====
section
/-! DEFINITION. The state of the block as plain data: every element of spec/10_state.md, with the power-on values of
spec/70_reset_and_hazards.md R350. Three fields are the model's own: the parameters, the pending event words and the
output of the last step (notes/assumptions/2.md, 3.md and 4.md). -/

namespace Sys2Proof.Machine

/-- LSTATE (R21). -/
inductive LinkState where
  | poweredUp
  | awaitingRecallResponse
  | active
  | failed
deriving DecidableEq, Repr

/-- FCAUSE (R22): the cause of the last entry into Failed. The codes 5 to 7 are never written. -/
inductive FCause where
  | none
  | pollTimeout
  | responseTimeout
  | linkDown
  | closed
deriving DecidableEq, Repr

/-- The eight configuration registers (R42 to R46, R48, R49, R52), or their session copies (R47). -/
structure ConfigRegs where
  /-- Register 0, EUC (R42). -/
  euc : BitVec 3
  /-- Register 1, ROLE (R43). -/
  role : Role
  /-- Register 2, LINKTO (R44). -/
  linkto : Ticks
  /-- Register 3, POLLTO (R45). -/
  pollto : Ticks
  /-- Register 4, RESPTO (R46). -/
  respto : Ticks
  /-- Register 5, RETRY (R48). -/
  retry : BitVec 8
  /-- Register 6, GAPADJ (R49). -/
  gapadj : BitVec 16
  /-- Register 7, POLLINT (R52). -/
  pollint : Ticks
deriving DecidableEq, Repr

/-- The output value of one step (R8): a frame for TXTAKE, a report word for RPTTAKE. -/
inductive Output where
  | frame (bytes : List Byte)
  | report (word : ReportWord)
deriving DecidableEq, Repr

/-- The whole state. -/
structure State where
  /-- The named parameters of R6. The model's own field: no step writes it. -/
  params : Params
  /-- The event words not yet consumed, oldest first (R84). The model's own field. -/
  input : List EventWord
  /-- What the last step returned (R8). The model's own field. -/
  out : Option Output
  /-- LSTATE (R21). -/
  lstate : LinkState
  /-- FCAUSE (R22). -/
  fcause : FCause
  /-- PRIOR_FAIL (R23). -/
  priorFail : Bool
  /-- HEARD (R24). -/
  heard : Bool
  /-- PU_CNT (R25). -/
  puCnt : Counter
  /-- RESP_CNT (R26). -/
  respCnt : Counter
  /-- RETRY_CNT (R27). -/
  retryCnt : BitVec 8
  /-- IDLE_CNT (R28). -/
  idleCnt : Counter
  /-- TXIDLE_CNT (R29). -/
  txidleCnt : Counter
  /-- FAIL_CNT (R30). -/
  failCnt : Counter
  /-- ASM (R31), oldest byte first. -/
  asm : List Byte
  /-- ASM_CNT (R32). -/
  asmCnt : Counter
  /-- V, the current vector (R33). -/
  v : VecReg
  /-- R, the last-reported vector (R34). -/
  r : VecReg
  /-- STG, the host staging vector (R35). -/
  stg : VecReg
  /-- TXQ, oldest frame first (R39). -/
  txq : List (List Byte)
  /-- RPTQ, oldest word first (R40). -/
  rptq : List ReportWord
  /-- RPT_OVF (R41). -/
  rptOvf : Bool
  /-- The CFG registers (R42 to R49, R52). -/
  cfg : ConfigRegs
  /-- The session copies S_* (R47). -/
  sess : ConfigRegs
deriving DecidableEq, Repr

/-- The block has no trap: every error is a report and a next state (R326), so no step faults and this type has no
constructor (notes/assumptions/7.md). -/
inductive Fault where
deriving DecidableEq, Repr

/-- Why an instruction has no meaning. -/
inductive Refusal where
  /-- Raised by a refused arm of `exec` alone, for an instruction without a meaning: safe. Every arm has its meaning,
  so nothing raises it. -/
  | notModelled (mnemonic : String)
deriving DecidableEq, Repr

/-- The power-on values of the configuration registers (R350): EUC and POLLINT are 0, the others are parameters. -/
def ConfigRegs.powerOn (p : Params) : ConfigRegs where
  euc := 0
  role := p.rstRole
  linkto := p.rstLinkto
  pollto := p.rstPollto
  respto := p.rstRespto
  retry := p.rstRetry
  gapadj := p.rstGapadj
  pollint := 0

/-- The power-on state (R350, R352) for given parameters, with no event word delivered yet. -/
def State.powerOn (p : Params) : State where
  params := p
  input := []
  out := none
  lstate := .poweredUp
  fcause := .none
  priorFail := false
  heard := false
  puCnt := 0
  respCnt := 0
  retryCnt := 0
  idleCnt := 0
  txidleCnt := 0
  failCnt := 0
  asm := []
  asmCnt := 0
  v := 0
  r := 0
  stg := 0
  txq := []
  rptq := []
  rptOvf := false
  cfg := ConfigRegs.powerOn p
  sess := ConfigRegs.powerOn p

/-- The machine right after power-on reset, at the parameter values of `Config.params` (notes/assumptions/1.md). -/
def State.reset : State := State.powerOn Config.params

end Sys2Proof.Machine
end

