-- ==== Sys2Proof/Machine/Operands.lean ====
section
/-! DEFINITION. Operand and field forms: the numeric codes of named values (spec/10_state.md R21, R22, R43), the
report codes and INFO fields (spec/60_exceptions.md R321), and the parts of the configuration registers the CFG event
writes and the read port reads (R42 to R52, R280). -/

namespace Sys2Proof.Machine

/-! ## Codes of named values -/

/-- LSTATE codes (R21). -/
def LinkState.code : LinkState → BitVec 2
  | .poweredUp => 0
  | .awaitingRecallResponse => 1
  | .active => 2
  | .failed => 3

/-- FCAUSE codes (R22). -/
def FCause.code : FCause → BitVec 3
  | .none => 0
  | .pollTimeout => 1
  | .responseTimeout => 2
  | .linkDown => 3
  | .closed => 4

/-- The causes that are transmission failures and set PRIOR_FAIL (R23). -/
def FCause.setsPriorFail : FCause → Bool
  | .none => false
  | .pollTimeout => true
  | .responseTimeout => true
  | .linkDown => true
  | .closed => false

/-- ROLE as the 1-bit register reads (R43). -/
def roleBit : Role → BitVec 1
  | .controller => 0
  | .station => 1

/-- ROLE from bit 0 of a written value (R43). -/
def roleOfValue (v : BitVec 24) : Role := if v.getLsbD 0 then .station else .controller

/-! ## Report codes (R321) -/

/-- The report names of R321. No other code is ever produced. -/
inductive ReportCode where
  | state
  | checksumFailure
  | invalidMessageType
  | invalidMessageLength
  | messageTimeout
  | incompleteMessage
  | transportFault
  | bitChanged
  | indexOutOfRange
  | lengthMismatch
  | localApplied
  | responseTimeout
  | pollTimeout
  | unexpectedFrame
  | illegalCommand
  | configRejected
  | txqOverflow
deriving DecidableEq, Repr

/-- CODE (R321). -/
def ReportCode.code : ReportCode → BitVec 8
  | .state => 0x01
  | .checksumFailure => 0x10
  | .invalidMessageType => 0x11
  | .invalidMessageLength => 0x12
  | .messageTimeout => 0x13
  | .incompleteMessage => 0x14
  | .transportFault => 0x20
  | .bitChanged => 0x30
  | .indexOutOfRange => 0x31
  | .lengthMismatch => 0x32
  | .localApplied => 0x33
  | .responseTimeout => 0x40
  | .pollTimeout => 0x41
  | .unexpectedFrame => 0x50
  | .illegalCommand => 0x60
  | .configRejected => 0x61
  | .txqOverflow => 0x70

/-- `(code << 24) | info[23:0]` (R185, R320). -/
def reportWord (code : ReportCode) (info : Info) : ReportWord :=
  (code.code.setWidth 32 <<< 24) ||| info.setWidth 32

/-! ## INFO fields (R321) -/

/-- `zext_24` of a bit field. -/
def zext24 {n : Nat} (x : BitVec n) : Info := x.setWidth 24

/-- A 1-bit INFO field. -/
def flagInfo (b : Bool) : Info := zext24 (BitVec.ofBool b)

/-- STATE: [1:0] new LSTATE, [6:4] FCAUSE. -/
def stateInfo (l : LinkState) (c : FCause) : Info := zext24 l.code ||| (zext24 c.code <<< 4)

/-- A count as an INFO field: ASM_LEN in MESSAGE_TIMEOUT and INCOMPLETE_MESSAGE. -/
def countInfo (n : Nat) : Info := BitVec.ofNat 24 n

/-- `info(F)` of R141: [7:0] header byte, [13:8] frame length. -/
def frameInfo (f : List Byte) : Info := zext24 (f.headD 0) ||| (countInfo f.length <<< 8)

/-- BIT_CHANGED: [7:0] point, [8] new state. -/
def pointInfo (i : Nat) (s : Bool) : Info := countInfo i ||| (flagInfo s <<< 8)

/-- INDEX_OUT_OF_RANGE: [7:0] index, [8] origin, 0 local or 1 peer. -/
def indexInfo (i : Nat) (peer : Bool) : Info := countInfo i ||| (flagInfo peer <<< 8)

/-- LENGTH_MISMATCH: [4:0] N, [12:8] NB. -/
def lengthInfo (n nb : Nat) : Info := countInfo n ||| (countInfo nb <<< 8)

/-- LOCAL_APPLIED: [7:0] point, [8] state, [9] changed. -/
def localInfo (i : Nat) (s changed : Bool) : Info :=
  countInfo i ||| (flagInfo s <<< 8) ||| (flagInfo changed <<< 9)

/-- UNEXPECTED_FRAME: [2:0] TYPE, [5:4] LSTATE. -/
def unexpectedInfo (t : BitVec 3) (l : LinkState) : Info := zext24 t ||| (zext24 l.code <<< 4)

/-- ILLEGAL_COMMAND: [3:0] OP, [5:4] reason. -/
def illegalInfo (op : BitVec 4) (reason : BitVec 2) : Info := zext24 op ||| (zext24 reason <<< 4)

/-- CONFIG_REJECTED: [3:0] REG, [4] 0 no register, 1 bad value. -/
def rejectInfo (reg : BitVec 4) (badValue : Bool) : Info := zext24 reg ||| (flagInfo badValue <<< 4)

/-! ## Configuration registers by number (R107, R280) -/

/-- `MAX[r]` of R280, for r from 0 to 7. -/
def cfgMax (reg : BitVec 4) : BitVec 24 :=
  match reg.toNat with
  | 0 => 6
  | 1 => 1
  | 5 => 0xFF
  | 6 => 0xFFFF
  | _ => 0xFFFFFF

/-- `CFG_reg[r] <- v`, for a register 0 to 7 and a value the register holds (R280). Registers 8 to 15 do not exist. -/
def ConfigRegs.write (c : ConfigRegs) (reg : BitVec 4) (v : BitVec 24) : ConfigRegs :=
  match reg.toNat with
  | 0 => { c with euc := v.setWidth 3 }
  | 1 => { c with role := roleOfValue v }
  | 2 => { c with linkto := v }
  | 3 => { c with pollto := v }
  | 4 => { c with respto := v }
  | 5 => { c with retry := v.setWidth 8 }
  | 6 => { c with gapadj := v.setWidth 16 }
  | 7 => { c with pollint := v }
  | _ => c

/-- Register n zero-extended to a read word (R72, rows 0x20 + n and 0x28 + n); bits above a register's width read 0. -/
def ConfigRegs.readWord (c : ConfigRegs) (n : Nat) : ReadWord :=
  match n with
  | 0 => c.euc.setWidth 32
  | 1 => (roleBit c.role).setWidth 32
  | 2 => c.linkto.setWidth 32
  | 3 => c.pollto.setWidth 32
  | 4 => c.respto.setWidth 32
  | 5 => c.retry.setWidth 32
  | 6 => c.gapadj.setWidth 32
  | 7 => c.pollint.setWidth 32
  | _ => 0

end Sys2Proof.Machine
end

