-- ==== Sys2Proof/Machine/Codec.lean ====
section
/-! DEFINITION. The frame codec's pure functions (spec/40_frame_codec.md section 1): checksum, header, encode, decode,
and the Update and All payloads. -/

namespace Sys2Proof.Machine

/-- The three message types (R92). -/
inductive MsgType where
  | msgRecall
  | msgUpdate
  | msgAll
deriving DecidableEq, Repr

/-- The 3-bit type code (R92). -/
def MsgType.code : MsgType → BitVec 3
  | .msgRecall => typeRecall
  | .msgUpdate => typeUpdate
  | .msgAll => typeAll

/-- The message type of a 3-bit code; the other five codes are invalid (R92). -/
def MsgType.ofCode (t : BitVec 3) : Option MsgType :=
  if t = typeRecall then some .msgRecall
  else if t = typeUpdate then some .msgUpdate
  else if t = typeAll then some .msgAll
  else none

/-- `expected_len(t, e)` (R94, R130). -/
def expectedLen (t : MsgType) (e : Nat) : Nat :=
  match t with
  | .msgRecall => 0
  | .msgUpdate => 1
  | .msgAll => 4 + 2 * e

/-- `sum8(F)`: the sum of the bytes mod 256. -/
def sum8 (f : List Byte) : Byte := f.foldr (· + ·) 0

/-- `checksum(X) = neg8(sum8(X))` (R98, R131). -/
def checksum (x : List Byte) : Byte := -(sum8 x)

/-- The frame bytes `[H] ++ P ++ [C]` (R90, R133). -/
def frameBytes (t : MsgType) (payload : List Byte) : List Byte :=
  let body := packHeader t.code (BitVec.ofNat 5 payload.length) :: payload
  body ++ [checksum body]

/-- The error of `encode` (R133). It cannot occur inside the block, so it has no report code (92 D47). -/
inductive EncodeError where
  | invalidPayloadLength
deriving DecidableEq, Repr

/-- `encode(t, P, e)` (R133). -/
def codecEncode (t : MsgType) (payload : List Byte) (e : Nat) : Except EncodeError (List Byte) :=
  if payload.length = expectedLen t e then .ok (frameBytes t payload) else .error .invalidPayloadLength

/-! ## Update payload (R95, R96, R134) -/

/-- `upd_byte(i, s) = (s << 7) | (i mod 128)`. -/
def updByte (i : Nat) (s : Bool) : Byte :=
  (BitVec.ofNat 8 s.toNat <<< 7) ||| BitVec.ofNat 8 (i % 128)

/-- `upd_point(U)`: the field value, with 0 naming point 128 (R96). -/
def updPoint (u : Byte) : Nat :=
  let f := (u.extractLsb' 0 7).toNat
  if f = 0 then 128 else f

/-- `upd_state(U) = U[7]`. -/
def updState (u : Byte) : Bool := u.getLsbD 7

/-! ## All payload (R75, R97, R140) -/

/-- `byte(X, k) = X[8k+7 : 8k]`. -/
def vbyte (x : VecReg) (k : Nat) : Byte := x.extractLsb' (8 * k) 8

/-- `vbytes(X, m)`: the first m bytes of a vector register. -/
def vbytes (x : VecReg) (m : Nat) : List Byte := (List.range m).map (vbyte x)

/-- `bits_of(P)`: point i is bit (i - 1) mod 8 of byte (i - 1) / 8, every higher point 0. -/
def bitsOf : List Byte → VecReg
  | [] => 0
  | b :: rest => (bitsOf rest <<< 8) ||| b.setWidth 128

/-! ## Decode (R135, R136) -/

/-- The three payload shapes of a decoded frame (R136). -/
inductive FrameBody where
  | bodyRecall
  | bodyUpdate (point : Nat) (state : Bool)
  | bodyAll (bits : VecReg)
deriving DecidableEq, Repr

/-- A decoded frame: the variant, and the raw fields it carries (R136). -/
structure Frame where
  body : FrameBody
  type : MsgType
  payload : List Byte
  checksum : Byte
deriving DecidableEq, Repr

/-- The decode errors, in the order of the checks (R135). -/
inductive DecodeError where
  | checksumFailure
  | invalidMessageType
  | invalidMessageLength
deriving DecidableEq, Repr

/-- The report an error of decode gives (R141). -/
def DecodeError.report : DecodeError → ReportCode
  | .checksumFailure => .checksumFailure
  | .invalidMessageType => .invalidMessageType
  | .invalidMessageLength => .invalidMessageLength

/-- The variant of a payload of its type's length (R136). -/
def frameBody (t : MsgType) (payload : List Byte) : FrameBody :=
  match t with
  | .msgRecall => .bodyRecall
  | .msgUpdate => .bodyUpdate (updPoint (payload.headD 0)) (updState (payload.headD 0))
  | .msgAll => .bodyAll (bitsOf payload)

/-- `decode(F, e)` (R135): checksum, then the empty list, then type, then length. -/
def codecDecode (f : List Byte) (e : Nat) : Except DecodeError Frame :=
  if sum8 f ≠ 0 then .error .checksumFailure
  else
    match f with
    | [] => .error .invalidMessageLength
    | h :: rest =>
      match MsgType.ofCode (hdrType h) with
      | none => .error .invalidMessageType
      | some t =>
        let n := (hdrLen h).toNat
        if n ≠ expectedLen t e ∨ rest.length + 1 ≠ n + 2 then .error .invalidMessageLength
        else .ok ⟨frameBody t (rest.take n), t, rest.take n, rest.getLastD 0⟩

/-- `ASM_EXP`: the frame length a buffer's header announces, 0 for an empty buffer (R31, R99). -/
def announcedLen (buf : List Byte) : Nat :=
  match buf with
  | [] => 0
  | h :: _ => (hdrLen h).toNat + 2

end Sys2Proof.Machine
end

