-- ==== Sys2Proof/Machine/Store.lean ====
section
/-! DEFINITION. The vector store's pure functions (spec/41_vector_store.md R180 to R183; spec/00_scope.md section 5). -/

namespace Sys2Proof.Machine

/-- `pt(X, i) = X[i-1]`, for points 1 to 128. -/
def pt (x : VecReg) (i : Nat) : Bool := x.getLsbD (i - 1)

/-- `setpt(X, i, s)`: X with bit i - 1 replaced by s. -/
def setpt (x : VecReg) (i : Nat) (s : Bool) : VecReg :=
  (x &&& ~~~(1#128 <<< (i - 1))) ||| (BitVec.ofNat 128 s.toNat <<< (i - 1))

/-- A vector with exactly the points 1 to n set. -/
def pointsTo (n : Nat) : VecReg := BitVec.ofNat 128 (2 ^ n - 1)

/-- The number of the health point (R37). -/
def healthPoint : Nat := 16

/-- `diff(A, B, n)` (R180). -/
def diff (a b : VecReg) (n : Nat) : List (Nat × Bool) :=
  (List.range n).filterMap fun k =>
    if pt a (k + 1) = pt b (k + 1) then none else some (k + 1, pt b (k + 1))

/-- The error of `apply` (R181). -/
inductive StoreError where
  | indexOutOfRange
deriving DecidableEq, Repr

/-- `apply(X, i, s, n)` (R181): the new vector and whether the point changed. Point 16 is in range and not written. -/
def applyPoint (x : VecReg) (i : Nat) (s : Bool) (n : Nat) : Except StoreError (VecReg × Bool) :=
  if i < 1 ∨ n < i then .error .indexOutOfRange
  else if i = healthPoint then .ok (x, false)
  else .ok (setpt x i s, pt x i != s)

/-- `replace(X, B, n)` (R182): points 1 to n but 16 from B, the rest from X. -/
def replaceVec (x b : VecReg) (n : Nat) : VecReg :=
  let m := setpt (pointsTo n) healthPoint false
  (b &&& m) ||| (x &&& ~~~m)

/-- `health(heard, idle, polltimeout)` (R183). -/
def health (heard : Bool) (idle : Counter) (pollto : Ticks) : Bool :=
  heard && decide (idle.toNat < pollto.toNat)

/-- STG with byte K replaced (R201). -/
def setVbyte (x : VecReg) (k : Nat) (b : Byte) : VecReg :=
  (x &&& ~~~(0xFF#128 <<< (8 * k))) ||| (b.setWidth 128 <<< (8 * k))

end Sys2Proof.Machine
end

