-- ==== Sys2Proof/Machine/Flags.lean ====
section
/-! DEFINITION. The derived values and flags (spec/10_state.md R50, R54): L, NB, POWERUP_TICKS, TX_READY, IRQ, HEALTH,
room in the queues, and the STATUS word (R51). None of them is stored. -/

namespace Sys2Proof.Machine

/-- `L = 32 + 16 × S_EUC` (R4, R50). -/
def State.len (s : State) : Nat := 32 + 16 * s.sess.euc.toNat

/-- `NB = 4 + 2 × S_EUC` (R4, R50). -/
def State.nb (s : State) : Nat := 4 + 2 * s.sess.euc.toNat

/-- `POWERUP_TICKS = 5 × TICKS_PER_SECOND` (R7). -/
def State.powerupTicks (s : State) : Nat := 5 * s.params.ticksPerSecond

/-- A queue of n entries has room for one more; `none` is an unbounded depth (R6). -/
def hasRoom (n : Nat) (depth : Option Nat) : Bool :=
  match depth with
  | none => true
  | some d => decide (n < d)

/-- `TX_READY = (|TXQ| > 0) ∧ (ASM_LEN = 0)` (R50): enables TXTAKE. -/
def State.txReady (s : State) : Bool := !s.txq.isEmpty && s.asm.isEmpty

/-- `IRQ = (|RPTQ| > 0)` (R50, R324). -/
def State.irq (s : State) : Bool := !s.rptq.isEmpty

/-- `HEALTH = pt(V, 16)` (R50). -/
def State.healthBit (s : State) : Bool := pt s.v healthPoint

/-- A 1-bit field of a read word at bit n. -/
def flagAt (b : Bool) (n : Nat) : ReadWord := BitVec.ofNat 32 b.toNat <<< n

/-- STATUS (R51); bits [3:2], [7], [15:13] and [31:17] read 0. -/
def State.status (s : State) : ReadWord :=
  s.lstate.code.setWidth 32 ||| (s.fcause.code.setWidth 32 <<< 4) ||| flagAt s.priorFail 8 |||
    flagAt s.heard 9 ||| flagAt s.rptOvf 10 ||| flagAt s.txReady 11 ||| flagAt s.irq 12 |||
    flagAt s.healthBit 16

end Sys2Proof.Machine
end

