-- ==== Sys2Proof/Machine/Ops.lean ====
section
/-! DEFINITION. The shared operations on the state: saturating counters, reports, the transmit queue, the supervisor's
procedures and what a completed frame does (spec/41_vector_store.md R185 to R187; spec/42_supervisor.md R220 to R229;
spec/40_frame_codec.md R141). The block has no trap; `State.enterFailed` (R221) is the one shared entry into the
error state, and `State.linkReset` (R281) the way back. -/

namespace Sys2Proof.Machine

/-- `sat32(x) = min(x, 2^32 - 1)` (R5). -/
def sat32 (x : Nat) : Counter := BitVec.ofNat 32 (min x (2 ^ 32 - 1))

/-- `inc(c)`: `c <- sat32(c + 1)`. -/
def inc (c : Counter) : Counter := sat32 (c.toNat + 1)

/-- `report(code, info)` (R185): append the report word, or set RPT_OVF when RPTQ is full. -/
def State.report (s : State) (code : ReportCode) (info : Info) : State :=
  if hasRoom s.rptq.length s.params.rptqDepth then { s with rptq := s.rptq ++ [reportWord code info] }
  else { s with rptOvf := true }

/-- `inc(FAIL_CNT)` (R30). -/
def State.countFailure (s : State) : State := { s with failCnt := inc s.failCnt }

/-- The ASM buffer emptied and its timer cleared (R31, R32). -/
def State.clearAsm (s : State) : State := { s with asm := [], asmCnt := 0 }

/-- `enqueue_tx(F)` (R186): the new state, and whether F was queued. -/
def State.enqueueTx (s : State) (f : List Byte) : State × Bool :=
  if hasRoom s.txq.length s.params.txqDepth then
    ({ s with txq := s.txq ++ [f], txidleCnt := 0 }, true)
  else ((s.report .txqOverflow (zext24 (hdrType (f.headD 0)))).countFailure, false)

/-- A point recorded as known to the peer in R. -/
def State.setReported (s : State) (i : Nat) (st : Bool) : State := { s with r := setpt s.r i st }

/-- One pass of the loop of `emit_diff`: queue the Update of a point, and record it in R if it was queued (R187). -/
def State.emitUpdate (s : State) (p : Nat × Bool) : State :=
  let q := s.enqueueTx (frameBytes .msgUpdate [updByte p.1 p.2])
  if q.2 then q.1.setReported p.1 p.2 else q.1

/-- `emit_diff()` (R187): one Update per point where V differs from R, ascending. -/
def State.emitDiff (s : State) : State := (diff s.r s.v s.len).foldl State.emitUpdate s

/-- `if LSTATE = Active: emit_diff()` (R200, R202, R244). -/
def State.emitIfActive (s : State) : State := if s.lstate = .active then s.emitDiff else s

/-- `enqueue_tx(encode(Recall, [], S_EUC))`, its result unused (R220, R241, R245). -/
def State.enqueueRecall (s : State) : State := (s.enqueueTx (frameBytes .msgRecall [])).1

/-- `send_recall()` (R220). -/
def State.sendRecall (s : State) : State :=
  State.report
    { s.enqueueRecall with
      priorFail := false, retryCnt := 0, respCnt := 0, puCnt := 0, lstate := .awaitingRecallResponse }
    .state (stateInfo .awaitingRecallResponse .none)

/-- `enter_failed(cause)` (R221): the one transition into Failed. -/
def State.enterFailed (s : State) (cause : FCause) : State :=
  State.report
    { s with
      lstate := .failed, fcause := cause, priorFail := s.priorFail || cause.setsPriorFail,
      asm := [], asmCnt := 0, txq := [], puCnt := 0, respCnt := 0 }
    .state (stateInfo .failed cause)

/-- The entry into Failed that LDOWN and CLOSE make: none in Failed, where FCAUSE keeps the first cause
(R251, R282). -/
def State.failUnlessFailed (s : State) (cause : FCause) : State :=
  if s.lstate = .failed then s else s.enterFailed cause

/-- `answer_recall()` (R222): an All frame holding V; R <- V if it was queued. -/
def State.answerRecall (s : State) : State :=
  let q := s.enqueueTx (frameBytes .msgAll (vbytes s.v s.nb))
  if q.2 then { q.1 with r := s.v } else q.1

/-- BIT_CHANGED for one point (R226 to R228). -/
def State.reportChange (s : State) (p : Nat × Bool) : State := s.report .bitChanged (pointInfo p.1 p.2)

/-- BIT_CHANGED for each point of a diff, in its order (R226, R228). -/
def State.reportChanges (s : State) (ds : List (Nat × Bool)) : State := ds.foldl State.reportChange s

/-- Peer replace: V and R take the points of B but 16, and the changes of V are reported (R226, R228). -/
def State.peerReplace (s : State) (b : VecReg) : State :=
  State.reportChanges { s with v := replaceVec s.v b s.len, r := replaceVec s.r b s.len }
    (diff s.v (replaceVec s.v b s.len) s.len)

/-- An All received in AwaitingRecallResponse: the recall response (R226). -/
def State.recallResponse (s : State) (b : VecReg) : State :=
  State.report { s.peerReplace b with lstate := .active, retryCnt := 0, respCnt := 0 }
    .state (stateInfo .active .none)

/-- An Update received in Active: peer apply (R227). -/
def State.peerApply (s : State) (i : Nat) (st : Bool) : State :=
  match applyPoint s.v i st s.len with
  | .error .indexOutOfRange => s.report .indexOutOfRange (indexInfo i true)
  | .ok (v', changed) =>
    let s1 := { s with v := v', r := if i = healthPoint then s.r else setpt s.r i st }
    if changed then s1.report .bitChanged (pointInfo i st) else s1

/-- A valid frame the state does not act on (R229). -/
def State.unexpectedFrame (s : State) (t : MsgType) : State :=
  s.report .unexpectedFrame (unexpectedInfo t.code s.lstate)

/-- The dispatch of R223 on LSTATE and the frame's variant, after R224. It is never called in Failed. -/
def State.dispatchFrame (s : State) (fr : Frame) : State :=
  match s.lstate, fr.body with
  | .failed, _ => s
  | _, .bodyRecall => s.answerRecall
  | .poweredUp, .bodyUpdate _ _ => s.unexpectedFrame fr.type
  | .poweredUp, .bodyAll _ => s.unexpectedFrame fr.type
  | .awaitingRecallResponse, .bodyUpdate _ _ => s.unexpectedFrame fr.type
  | .awaitingRecallResponse, .bodyAll b => s.recallResponse b
  | .active, .bodyUpdate i st => s.peerApply i st
  | .active, .bodyAll b => s.peerReplace b

/-- Every frame that passes decode first does HEARD <- 1 and IDLE_CNT <- 0 (R224). -/
def State.heardFrame (s : State) : State := { s with heard := true, idleCnt := 0 }

/-- `frame_received(fr)` (R223): rule R224, then the dispatch. -/
def State.frameReceived (s : State) (fr : Frame) : State := s.heardFrame.dispatchFrame fr

/-- A frame is complete (R141, second half): the buffer is emptied, the frame decoded, and either its error reported and
counted or the frame acted on. -/
def State.completeFrame (s : State) (f : List Byte) : State :=
  match codecDecode f s.sess.euc.toNat with
  | .error e => (s.clearAsm.report e.report (frameInfo f)).countFailure
  | .ok fr => s.clearAsm.frameReceived fr

/-- The step that delivers the last byte of a frame: nothing in Failed, otherwise its completion (R141). -/
def State.receiveWhole (s : State) (f : List Byte) : State :=
  if s.lstate = .failed then s else s.completeFrame f

/-- An SOP byte while a partial frame is buffered discards the partial frame (R141). -/
def State.dropPartial (s : State) : State :=
  ((s.report .incompleteMessage (countInfo s.asm.length)).countFailure).clearAsm

/-- A byte appended to ASM, its timer cleared; a frame that this completes is decoded in the same step (R141). -/
def State.acceptByte (s : State) (b : Byte) : State :=
  if (s.asm ++ [b]).length = announcedLen (s.asm ++ [b]) then
    State.completeFrame { s with asm := s.asm ++ [b], asmCnt := 0 } (s.asm ++ [b])
  else { s with asm := s.asm ++ [b], asmCnt := 0 }

/-- An illegal event word (R290): ILLEGAL_COMMAND and nothing else. -/
def State.illegal (s : State) (op : BitVec 4) (reason : BitVec 2) : State :=
  s.report .illegalCommand (illegalInfo op reason)

/-- The session latch (R47). -/
def State.latchSession (s : State) : State := { s with sess := s.cfg }

/-- RESET (R281): the session is latched first, so L is the new session's. -/
def State.linkReset (s : State) : State :=
  State.report
    { s.latchSession with
      v := setpt (s.v &&& pointsTo s.latchSession.len) healthPoint false, r := 0,
      lstate := .poweredUp, fcause := .none, heard := false,
      puCnt := 0, respCnt := 0, retryCnt := 0, idleCnt := 0, txidleCnt := 0, asmCnt := 0,
      asm := [], txq := [] }
    .state (stateInfo .poweredUp .none)

end Sys2Proof.Machine
end

