-- ==== Sys2Proof/Machine/Control.lean ====
section
/-! DEFINITION. The control events: CFG, RESET, CLOSE and the queue handshakes TXTAKE and RPTTAKE
(spec/43_control.md R280 to R287). -/

namespace Sys2Proof.Machine

/-- CFG (R280): no such register, value out of range, or the register written. No rule reads it until RESET. -/
def execCfg (reg : BitVec 4) (value : BitVec 24) (s : State) : Host.Outcome State Fault Refusal :=
  if 7 < reg.toNat then .next (s.report .configRejected (rejectInfo reg false))
  else if (cfgMax reg).toNat < value.toNat then .next (s.report .configRejected (rejectInfo reg true))
  else .next { s with cfg := s.cfg.write reg value }

/-- RESET (R281), in every LinkState. -/
def execReset (s : State) : Host.Outcome State Fault Refusal := .next s.linkReset

/-- CLOSE (R282). -/
def execClose (s : State) : Host.Outcome State Fault Refusal := .next (s.failUnlessFailed .closed)

/-- TXTAKE (R286): the oldest frame, only while no frame is being received; otherwise none. -/
def execTxtake (s : State) : Host.Outcome State Fault Refusal :=
  match s.txq with
  | [] => .next { s with out := none }
  | f :: rest =>
    if s.asm.length = 0 then .next { s with out := some (.frame f), txq := rest }
    else .next { s with out := none }

/-- RPTTAKE (R287): the oldest report word, or none. RPT_OVF is not cleared. -/
def execRpttake (s : State) : Host.Outcome State Fault Refusal :=
  match s.rptq with
  | [] => .next { s with out := none }
  | w :: rest => .next { s with out := some (.report w), rptq := rest }

end Sys2Proof.Machine
end

