-- ==== Sys2Proof/Machine/Frames.lean ====
section
/-! DEFINITION. The wire frames RECALL, UPDATE and ALL (spec/40_frame_codec.md R137 to R139): what the block does when
the last byte of the frame arrives (R141). A frame arrives inside the step of an RXB, so nothing here is a second
way into the machine (notes/assumptions/5.md). A checksum that does not make the sum 0, and an ALL whose LEN does not
fit the session, are the decode errors of R135. -/

namespace Sys2Proof.Machine

/-- RECALL (R137, received R225). -/
def execRecall (checksum : Byte) (s : State) : Host.Outcome State Fault Refusal :=
  .next (s.receiveWhole [packHeader typeRecall 0, checksum])

/-- UPDATE (R138, received R227, R229). -/
def execUpdate (payload checksum : Byte) (s : State) : Host.Outcome State Fault Refusal :=
  .next (s.receiveWhole [packHeader typeUpdate 1, payload, checksum])

/-- ALL (R139, received R226, R228, R229). -/
def execAll (payload : List Byte) (checksum : Byte) (s : State) : Host.Outcome State Fault Refusal :=
  .next (s.receiveWhole (packHeader typeAll (BitVec.ofNat 5 payload.length) :: (payload ++ [checksum])))

end Sys2Proof.Machine
end

