-- ==== Sys2Proof/Machine/Reception.lean ====
section
/-! DEFINITION. The transport's events: RXB (spec/40_frame_codec.md R141), and RXF, LIDLE and LDOWN
(spec/42_supervisor.md R250 to R252). -/

namespace Sys2Proof.Machine

/-- RXB (R141): a byte in Failed is dropped. -/
def execRxb (sop : Bool) (byte : Byte) (s : State) : Host.Outcome State Fault Refusal :=
  if s.lstate = .failed then .next s
  else if sop && decide (0 < s.asm.length) then .next (s.dropPartial.acceptByte byte)
  else .next (s.acceptByte byte)

/-- RXF (R252): reported and counted in every LinkState; ASM and LSTATE are untouched. -/
def execRxf (kind : TransportFault) (s : State) : Host.Outcome State Fault Refusal :=
  .next (s.report .transportFault (zext24 kind.code)).countFailure

/-- LIDLE (R250): a Station in PoweredUp sends its Recall; otherwise no effect. -/
def execLidle (s : State) : Host.Outcome State Fault Refusal :=
  .next (if s.lstate = .poweredUp ∧ s.sess.role = .station then s.sendRecall else s)

/-- LDOWN (R251). -/
def execLdown (s : State) : Host.Outcome State Fault Refusal :=
  .next (s.failUnlessFailed .linkDown)

end Sys2Proof.Machine
end

