-- ==== Sys2Proof/Machine/Reserved.lean ====
section
/-! DEFINITION. The reserved event opcodes (spec/30_encoding.md R105, spec/43_control.md R290): ILLEGAL_COMMAND with
reason 0, whatever the other 28 bits are, and nothing else. -/

namespace Sys2Proof.Machine

/-- RESERVED_OP_0x0 (R290). -/
def execReservedOp0 (_any : BitVec 28) (s : State) : Host.Outcome State Fault Refusal :=
  .next (s.illegal 0x0 0)

/-- RESERVED_OP_0xE (R290). -/
def execReservedOpE (_any : BitVec 28) (s : State) : Host.Outcome State Fault Refusal :=
  .next (s.illegal 0xE 0)

/-- RESERVED_OP_0xF (R290). -/
def execReservedOpF (_any : BitVec 28) (s : State) : Host.Outcome State Fault Refusal :=
  .next (s.illegal 0xF 0)

end Sys2Proof.Machine
end

