-- ==== Sys2Proof/Machine/StoreEvents.lean ====
section
/-! DEFINITION. The host's events on the vector store: SETBIT, WRSTG and LOADALL
(spec/41_vector_store.md R200 to R202). -/

namespace Sys2Proof.Machine

/-- SETBIT (R200): a local change of one point, emitted at once in Active. -/
def execSetbit (state : Bool) (index : BitVec 8) (s : State) : Host.Outcome State Fault Refusal :=
  match applyPoint s.v index.toNat state s.len with
  | .error .indexOutOfRange => .next (s.report .indexOutOfRange (indexInfo index.toNat false))
  | .ok (v', changed) =>
    .next (State.emitIfActive
      (State.report { s with v := v' } .localApplied (localInfo index.toNat state changed)))

/-- WRSTG (R201): byte K of STG, in every LinkState. -/
def execWrstg (k : BitVec 4) (byte : Byte) (s : State) : Host.Outcome State Fault Refusal :=
  .next { s with stg := setVbyte s.stg k.toNat byte }

/-- LOADALL (R202): V takes the first NB bytes of STG, point 16 kept. -/
def execLoadall (n : BitVec 5) (s : State) : Host.Outcome State Fault Refusal :=
  if n.toNat ≠ s.nb then .next (s.report .lengthMismatch (lengthInfo n.toNat s.nb))
  else .next (State.emitIfActive { s with v := replaceVec s.v (bitsOf (vbytes s.stg s.nb)) s.len })

end Sys2Proof.Machine
end

