-- ==== Sys2Proof/Machine/Tick.lean ====
section
/-! DEFINITION. TICK and its six sub-steps T1 to T6 (spec/42_supervisor.md R236 to R245). -/

namespace Sys2Proof.Machine

/-- A timer has reached its limit (R329). -/
def expired (c : Counter) (limit : Ticks) : Bool := decide (limit.toNat ≤ c.toNat)

/-- T1: IDLE_CNT and TXIDLE_CNT count in every LinkState (R237). -/
def State.tickCounters (s : State) : State :=
  { s with idleCnt := inc s.idleCnt, txidleCnt := inc s.txidleCnt }

/-- T2: the link timeout discards a partial frame (R238). -/
def State.tickLinkTimeout (s : State) : State :=
  if s.asm.length = 0 then s
  else if expired (inc s.asmCnt) s.sess.linkto then
    ((s.report .messageTimeout (countInfo s.asm.length)).countFailure).clearAsm
  else { s with asmCnt := inc s.asmCnt }

/-- T3 in PoweredUp: the power-up Recall (R240). -/
def State.tickPoweredUp (s : State) : State :=
  match s.sess.role with
  | .controller =>
    if s.powerupTicks ≤ (inc s.puCnt).toNat then State.sendRecall { s with puCnt := inc s.puCnt }
    else { s with puCnt := inc s.puCnt }
  | .station => if s.priorFail then s.sendRecall else s

/-- T3 in AwaitingRecallResponse: the response timeout and retry (R241). -/
def State.tickAwaiting (s : State) : State :=
  if expired (inc s.respCnt) s.sess.respto then
    let s1 := State.report { s with respCnt := inc s.respCnt } .responseTimeout (zext24 s.retryCnt)
    if s1.retryCnt.toNat < s1.sess.retry.toNat then
      State.enqueueRecall { s1 with retryCnt := s1.retryCnt + 1, respCnt := 0 }
    else s1.enterFailed .responseTimeout
  else { s with respCnt := inc s.respCnt }

/-- T3 in Active: the poll timeout (R242). -/
def State.tickActive (s : State) : State :=
  if expired s.idleCnt s.sess.pollto then (s.report .pollTimeout 0).enterFailed .pollTimeout else s

/-- T3: one arm, by LSTATE as it stands; nothing in Failed (R236, R239). -/
def State.tickLink (s : State) : State :=
  match s.lstate with
  | .poweredUp => s.tickPoweredUp
  | .awaitingRecallResponse => s.tickAwaiting
  | .active => s.tickActive
  | .failed => s

/-- T4: the health recompute, in every LinkState (R243). -/
def State.tickHealth (s : State) : State :=
  { s with v := setpt s.v healthPoint (health s.heard s.idleCnt s.sess.pollto) }

/-- The condition of T6 (R245). -/
def State.keepAliveDue (s : State) : Bool :=
  decide (s.lstate = .active) && decide (s.sess.role = .controller) && decide (s.sess.pollint ≠ 0) &&
    expired s.txidleCnt s.sess.pollint

/-- T6: the keep-alive poll (R245). -/
def State.tickKeepAlive (s : State) : State := if s.keepAliveDue then s.enqueueRecall else s

/-- TICK (R236): T1 to T6 in order; T5 is `emitIfActive` (R244). -/
def execTick (s : State) : Host.Outcome State Fault Refusal :=
  .next s.tickCounters.tickLinkTimeout.tickLink.tickHealth.emitIfActive.tickKeepAlive

end Sys2Proof.Machine
end

