-- ==== Sys2Proof/Machine/Dispatch.lean ====
section
/-! DEFINITION. The meaning of each instruction (spec/43_control.md R291, last line). -/

namespace Sys2Proof.Machine

open Sys2Proof

def exec (i : Instr) (s : State) : Host.Outcome State Fault Refusal :=
  match i with
  | .rxb sop byte => Sys2Proof.Machine.execRxb sop byte s
  | .rxf kind => Sys2Proof.Machine.execRxf kind s
  | .lidle => Sys2Proof.Machine.execLidle s
  | .ldown => Sys2Proof.Machine.execLdown s
  | .tick => Sys2Proof.Machine.execTick s
  | .setbit state index => Sys2Proof.Machine.execSetbit state index s
  | .wrstg k byte => Sys2Proof.Machine.execWrstg k byte s
  | .loadall n => Sys2Proof.Machine.execLoadall n s
  | .cfg reg value => Sys2Proof.Machine.execCfg reg value s
  | .reset => Sys2Proof.Machine.execReset s
  | .close => Sys2Proof.Machine.execClose s
  | .txtake => Sys2Proof.Machine.execTxtake s
  | .rpttake => Sys2Proof.Machine.execRpttake s
  | .reservedOp0 any => Sys2Proof.Machine.execReservedOp0 any s
  | .reservedOpE any => Sys2Proof.Machine.execReservedOpE any s
  | .reservedOpF any => Sys2Proof.Machine.execReservedOpF any s
  | .recallFrame checksum => Sys2Proof.Machine.execRecall checksum s
  | .updateFrame payload checksum => Sys2Proof.Machine.execUpdate payload checksum s
  | .allFrame payload checksum => Sys2Proof.Machine.execAll payload checksum s

end Sys2Proof.Machine
end

