-- ==== Sys2Proof/Machine/Fetch.lean ====
section
/-! DEFINITION. The input port: how the block takes its next event word (spec/00_scope.md R8, spec/20_memory.md R84), what
becomes of a word the decoder rejects (spec/43_control.md R290, R291), and how a word of the opcode table is placed
where the next step takes it. -/

namespace Sys2Proof.Machine

/-- The oldest pending event word, and the state as the step's rule finds it: the word consumed, no output yet.
No pending word, no step of the block (notes/assumptions/3.md). -/
def State.fetchEvent (s : State) : Option (EventWord × State) :=
  match s.input with
  | [] => none
  | w :: rest => some (w, { s with input := rest, out := none })

/-- The reason of ILLEGAL_COMMAND for a rejected word: 1 a reserved bit, 2 a bad KIND (R290). -/
def rejectReason : EventReject → BitVec 2
  | .reservedBits _ => 1
  | .badKind => 2

/-- A rejected event word (R290). -/
def State.rejectEvent (s : State) (w : EventWord) (e : EventReject) : State :=
  s.illegal (opField w) (rejectReason e)

/-- An encoded instruction placed so that the next step runs it. An event word goes to the head of the input. A frame is
run by the step that receives its last byte (R141): the bytes before it stand in ASM and the RXB of the last byte
goes to the head of the input (notes/assumptions/5.md). -/
def State.place (s : State) : Encoded → State
  | .event w => { s with input := w :: s.input }
  | .frame bytes => { s with asm := bytes.dropLast, input := rxbWord false (bytes.getLastD 0) :: s.input }

end Sys2Proof.Machine
end

