-- ==== Sys2Proof/Machine/Step.lean ====
section
/-! DEFINITION. One step (spec/43_control.md R291): take one event word, decode it in the priority of R108, run its rule.
With no event word pending the block waits, and the state is as it was (notes/assumptions/3.md). -/

namespace Sys2Proof.Machine

/-- One step of the block (R8, R291). -/
def step (s : State) : Host.Outcome State Fault Refusal :=
  match s.fetchEvent with
  | none => .next s
  | some (w, s1) =>
    match decodeEvent w with
    | .ok i => exec i s1
    | .error e => .next (s1.rejectEvent w e)

/-- A word of the opcode table placed where the next step runs it. -/
def State.withFetchWord (s : State) (nbits w : Nat) : State := s.place (encodedOfTableWord nbits w)

end Sys2Proof.Machine
end

