-- ==== Sys2Proof/Machine/Assembler.lean ====
section
/-! DEFINITION. The assembler syntax and pseudo-instructions (spec/30_encoding.md R109 to R111): the forms, the event words
they expand to, and a reader of one line of text. -/

namespace Sys2Proof.Machine

/-- The forms of R109, and the pseudo-instructions of R110. -/
inductive AsmLine where
  | rxb (b : Byte)
  | rxbSop (b : Byte)
  | rxf (kind : BitVec 3)
  | lidle
  | ldown
  | tick
  | reset
  | close
  | txtake
  | rpttake
  | setbit (index : BitVec 8) (state : Bool)
  | wrstg (k : BitVec 4) (b : Byte)
  | loadall (n : BitVec 5)
  | cfg (reg : BitVec 4) (value : BitVec 24)
  | word (w : EventWord)
  | ticks (n : Nat)
  | rxframe (bytes : List Byte)
  | rxframeSop (first : Byte) (rest : List Byte)
  | wrstgv (bytes : List Byte)
deriving DecidableEq, Repr

/-- The event words of a line, every reserved bit 0 but in `.WORD` (R109, R110). -/
def AsmLine.words : AsmLine → List EventWord
  | .rxb b => [rxbWord false b]
  | .rxbSop b => [rxbWord true b]
  | .rxf k => [rxfWord k]
  | .lidle => [opWord 0x3]
  | .ldown => [opWord 0x4]
  | .tick => [opWord 0x5]
  | .reset => [opWord 0xA]
  | .close => [opWord 0xB]
  | .txtake => [opWord 0xC]
  | .rpttake => [opWord 0xD]
  | .setbit i st => [setbitWord st i]
  | .wrstg k b => [wrstgWord k b]
  | .loadall n => [loadallWord n]
  | .cfg r v => [cfgWord r v]
  | .word w => [w]
  | .ticks n => List.replicate n (opWord 0x5)
  | .rxframe bs => bs.map (rxbWord false)
  | .rxframeSop b bs => rxbWord true b :: bs.map (rxbWord false)
  | .wrstgv xs => xs.zipIdx.map fun p => wrstgWord (BitVec.ofNat 4 p.2) p.1

/-- A program's event words, in order. -/
def asmWords (program : List AsmLine) : List EventWord := program.flatMap AsmLine.words

/-! ## Frame notation (R111) -/

/-- `RECALL`. -/
def asmRecall : List Byte := frameBytes .msgRecall []

/-- `UPDATE(i, s)`. -/
def asmUpdate (i : Nat) (s : Bool) : List Byte := frameBytes .msgUpdate [updByte i s]

/-- `ALL(b0, …, b(NB-1))`. -/
def asmAll (payload : List Byte) : List Byte := frameBytes .msgAll payload

/-! ## Reading a line of text -/

/-- Cut a text at every occurrence of a character. -/
def cutAt (c : Char) : List Char → List (List Char)
  | [] => [[]]
  | x :: xs =>
    if x = c then [] :: cutAt c xs
    else
      match cutAt c xs with
      | [] => [[x]]
      | y :: ys => (x :: y) :: ys

/-- A text without the spaces around it. -/
def trimSpaces (t : List Char) : List Char :=
  (((t.dropWhile (· = ' ')).reverse).dropWhile (· = ' ')).reverse

/-- The value of a hexadecimal digit. -/
def digitValue (c : Char) : Option Nat :=
  let n := c.toNat
  if 48 ≤ n ∧ n ≤ 57 then some (n - 48)
  else if 65 ≤ n ∧ n ≤ 70 then some (n - 55)
  else if 97 ≤ n ∧ n ≤ 102 then some (n - 87)
  else none

/-- Digits in a base, most significant first. -/
def readDigits (base : Nat) (acc : Nat) : List Char → Option Nat
  | [] => some acc
  | c :: cs =>
    match digitValue c with
    | some d => if d < base then readDigits base (acc * base + d) cs else none
    | none => none

/-- A number: decimal, or hexadecimal with `0x` (R109). -/
def readNumber (t : List Char) : Option Nat :=
  match t with
  | [] => none
  | '0' :: 'x' :: c :: cs => readDigits 16 0 (c :: cs)
  | c :: cs => readDigits 10 0 (c :: cs)

/-- A number that fits an operand of n bits. -/
def readField (n : Nat) (t : List Char) : Option (BitVec n) :=
  match readNumber t with
  | some v => if v < 2 ^ n then some (BitVec.ofNat n v) else none
  | none => none

/-- An operand given by one of a list of names, numbered from 0, or by a number. -/
def readNamed (n : Nat) (names : List String) (t : List Char) : Option (BitVec n) :=
  match names.findIdx? (fun name => decide (name.toList = t)) with
  | some k => some (BitVec.ofNat n k)
  | none => readField n t

/-- The names of RXF's kinds (R109). -/
def kindNames : List String := ["RXOVF", "OVERRUN", "PARITY", "FRAMING", "TXFULL"]

/-- The names of CFG's registers (R109). -/
def regNames : List String := ["EUC", "ROLE", "LINKTO", "POLLTO", "RESPTO", "RETRY", "GAPADJ", "POLLINT"]

/-- A state operand: 0 or 1. -/
def readState (t : List Char) : Option Bool := (readField 1 t).map (·.getLsbD 0)

/-- The line a mnemonic and its operands make (R109, R110). -/
def readForm (name : String) (ops : List (List Char)) : Option AsmLine :=
  match name, ops with
  | "RXB", [b] => (readField 8 b).map .rxb
  | "RXB.SOP", [b] => (readField 8 b).map .rxbSop
  | "RXF", [k] => (readNamed 3 kindNames k).map .rxf
  | "LIDLE", [] => some .lidle
  | "LDOWN", [] => some .ldown
  | "TICK", [] => some .tick
  | "TICK", ['×' :: n] => (readNumber n).map .ticks
  | "RESET", [] => some .reset
  | "CLOSE", [] => some .close
  | "TXTAKE", [] => some .txtake
  | "RPTTAKE", [] => some .rpttake
  | "SETBIT", [i, st] => (readField 8 i).bind fun i => (readState st).map fun st => .setbit i st
  | "WRSTG", [k, b] => (readField 4 k).bind fun k => (readField 8 b).map fun b => .wrstg k b
  | "LOADALL", [n] => (readField 5 n).map .loadall
  | "CFG", [r, v] => (readNamed 4 regNames r).bind fun r => (readField 24 v).map fun v => .cfg r v
  | ".WORD", [w] => (readField 32 w).map .word
  | "RXFRAME", b :: bs => ((b :: bs).mapM (readField 8)).map .rxframe
  | "RXFRAME.SOP", b :: bs => (readField 8 b).bind fun b => (bs.mapM (readField 8)).map fun bs => .rxframeSop b bs
  | "WRSTGV", b :: bs => if bs.length ≤ 15 then ((b :: bs).mapM (readField 8)).map .wrstgv else none
  | _, _ => none

/-- One line of text: a mnemonic, a space, then operands separated by commas (R109). The exact form of white space and the
refusal of a number too wide for its operand are the model's (notes/assumptions/12.md). -/
def readLine (t : List Char) : Option AsmLine :=
  let line := trimSpaces t
  let name := line.takeWhile (· ≠ ' ')
  let rest := trimSpaces (line.dropWhile (· ≠ ' '))
  readForm (String.ofList name) (if rest.isEmpty then [] else (cutAt ',' rest).map trimSpaces)

end Sys2Proof.Machine
end

