-- ==== Sys2Proof/Machine/Links.lean ====
section
/-! DEFINITION. A platform with several links (spec/60_exceptions.md R330): one instance of the whole block per link, each
with its own input stream, no shared state and no messages between them. -/

namespace Sys2Proof.Machine

/-- One step of the block of link k; a platform without a link k does nothing. -/
def stepLink (links : List State) (k : Nat) : Host.Outcome (List State) Fault Refusal :=
  match links[k]? with
  | none => .next links
  | some s =>
    match step s with
    | .next t => .next (links.set k t)
    | .fault r => .fault r
    | .refused r => .refused r

end Sys2Proof.Machine
end

