-- ==== Sys2Proof/Machine/ReadPort.lean ====
section
/-! DEFINITION. The host read port `RdReg` (spec/20_memory.md R71 to R73, R76): a function of the state between steps,
with no effect on it. -/

namespace Sys2Proof.Machine

/-- Word w of a vector register: bit b is X[32w + b] (R76). -/
def vecWord (x : VecReg) (w : Nat) : ReadWord := x.extractLsb' (32 * w) 32

/-- A count as a read word, saturated at 2^32 - 1 (R72, rows 0x09 and 0x0A). -/
def countWord (n : Nat) : ReadWord := BitVec.ofNat 32 (min n (2 ^ 32 - 1))

/-- The word at 0x07: [5:0] ASM_LEN, [13:8] ASM_EXP, which is 0 for an empty buffer (R31). -/
def State.asmWord (s : State) : ReadWord :=
  (BitVec.ofNat 6 s.asm.length).setWidth 32 ||| ((BitVec.ofNat 6 (announcedLen s.asm)).setWidth 32 <<< 8)

/-- The word at 0x0B: [7:0] L, [12:8] NB. -/
def State.sizeWord (s : State) : ReadWord :=
  (BitVec.ofNat 8 s.len).setWidth 32 ||| ((BitVec.ofNat 5 s.nb).setWidth 32 <<< 8)

/-- The scalar rows of R72, addresses 0x00 to 0x0F. -/
def State.rdScalar (s : State) (a : Nat) : ReadWord :=
  match a with
  | 0x00 => s.status
  | 0x01 => s.failCnt
  | 0x02 => s.retryCnt.setWidth 32
  | 0x03 => s.idleCnt
  | 0x04 => s.respCnt
  | 0x05 => s.puCnt
  | 0x06 => s.txidleCnt
  | 0x07 => s.asmWord
  | 0x08 => s.asmCnt
  | 0x09 => countWord s.txq.length
  | 0x0A => countWord s.rptq.length
  | 0x0B => s.sizeWord
  | _ => 0

/-- `RdReg(a)` (R72): every address not in the table reads 0. -/
def State.rdReg (s : State) (a : BitVec 8) : ReadWord :=
  let n := a.toNat
  if n < 0x10 then s.rdScalar n
  else if n < 0x14 then vecWord s.v (n - 0x10)
  else if n < 0x18 then vecWord s.r (n - 0x14)
  else if n < 0x1C then vecWord s.stg (n - 0x18)
  else if n < 0x20 then 0
  else if n < 0x28 then s.cfg.readWord (n - 0x20)
  else if n < 0x30 then s.sess.readWord (n - 0x28)
  else 0

end Sys2Proof.Machine
end

