-- ==== Sys2Proof/Safety.lean ====
section
/-! DEFINITION. The terms claims use: the invariant of the block's state, the states a run reaches under every schedule of
its environment, the merging of the event sources (spec/20_memory.md R84), and effects in the numbers of the spec's tables
(report words, frame bytes), written apart from the operations that build them. -/

namespace Sys2Proof.Machine

/-- What holds of every state a run reaches. Each field names the rules it collects. -/
structure Inv (s : State) : Prop where
  /-- CFG_EUC is a legal unit count (R42, R280). -/
  cfgEuc : s.cfg.euc.toNat ≤ 6
  /-- S_EUC is a legal unit count (R42, R47). -/
  sessEuc : s.sess.euc.toNat ≤ 6
  /-- Points of V above L are 0 (R38). -/
  vAbove : ∀ i, s.len < i → i ≤ 128 → pt s.v i = false
  /-- Points of R above L are 0 (R38). -/
  rAbove : ∀ i, s.len < i → i ≤ 128 → pt s.r i = false
  /-- A buffered frame is incomplete, so ASM holds at most 32 bytes between steps (R31, R141). -/
  asmPartial : s.asm ≠ [] → s.asm.length < announcedLen s.asm
  /-- ASM_CNT is 0 while ASM is empty (R32). -/
  asmTimer : s.asm = [] → s.asmCnt = 0
  /-- In Failed no byte and no frame is held (R221). -/
  failedEmpty : s.lstate = .failed → s.asm = [] ∧ s.txq = []
  /-- PU_CNT is 0 outside PoweredUp (R25). -/
  puOutside : s.lstate ≠ .poweredUp → s.puCnt = 0
  /-- PU_CNT is 0 in a Station (R25). -/
  puStation : s.sess.role = .station → s.puCnt = 0
  /-- RESP_CNT is 0 outside AwaitingRecallResponse (R26). -/
  respOutside : s.lstate ≠ .awaitingRecallResponse → s.respCnt = 0
  /-- RETRY_CNT never passes S_RETRY (R241). -/
  retryBound : s.retryCnt.toNat ≤ s.sess.retry.toNat
  /-- FCAUSE names a cause exactly in Failed (R22, R255). -/
  causeInFailed : s.lstate = .failed ↔ s.fcause ≠ .none
  /-- An Active link has heard its peer (R224, R226). -/
  activeHeard : s.lstate = .active → s.heard = true
  /-- Health is 0 until a valid frame of the session (R183). -/
  healthHeard : pt s.v healthPoint = true → s.heard = true
  /-- TXQ holds at most TXQ_DEPTH frames (R39). -/
  txqBound : ∀ d, s.params.txqDepth = some d → s.txq.length ≤ d
  /-- RPTQ holds at most RPTQ_DEPTH words (R40). -/
  rptqBound : ∀ d, s.params.rptqDepth = some d → s.rptq.length ≤ d
  /-- Every queued frame is a valid frame of the session (R39, R133). -/
  txqValid : ∀ f ∈ s.txq, ∃ fr, codecDecode f s.sess.euc.toNat = .ok fr
  /-- Every report word has a code of the table (R321). -/
  rptqCodes : ∀ w ∈ s.rptq, ∃ code info, w = reportWord code info

/-- The states reached from power-on under every schedule: the environment delivers any event word at any time, and the
block takes steps (R84, R352). -/
inductive Reachable (p : Params) : State → Prop where
  | powerOn : Reachable p (State.powerOn p)
  | deliver (s : State) (w : EventWord) : Reachable p s → Reachable p { s with input := s.input ++ [w] }
  | step (s t : State) : Reachable p s → Machine.step s = .next t → Reachable p t

/-- `m` is an interleaving of `a` and `b`, each kept in its own order (R84). -/
inductive Merge {α : Type} : List α → List α → List α → Prop where
  | nil : Merge [] [] []
  | left (x : α) (a b m : List α) : Merge a b m → Merge (x :: a) b (x :: m)
  | right (x : α) (a b m : List α) : Merge a b m → Merge a (x :: b) (x :: m)

/-- The merged input streams of the three sources (R84): every interleaving of transport, host and ticks. -/
def IsSchedule (transport host ticks merged : List EventWord) : Prop :=
  ∃ m, Merge transport host m ∧ Merge m ticks merged

/-- A report word, given as a number, queued if RPTQ has room, and otherwise recorded as lost (R185, R320). -/
def State.noteWord (s : State) (w : Nat) : State :=
  if hasRoom s.rptq.length s.params.rptqDepth then { s with rptq := s.rptq ++ [BitVec.ofNat 32 w] }
  else { s with rptOvf := true }

/-- A frame of a type code queued if TXQ has room, and otherwise TXQ_OVERFLOW, 0x70, reported and counted (R186). -/
def State.noteFrame (s : State) (f : List Byte) (type : Nat) : State :=
  if hasRoom s.txq.length s.params.txqDepth then { s with txq := s.txq ++ [f], txidleCnt := 0 }
  else { s.noteWord (0x70000000 + type) with failCnt := inc s.failCnt }

/-- The Recall frame as bytes (R133). -/
def recallBytes : List Byte := [0x80, 0x80]

/-- The Update frame of a point and its state as bytes, by arithmetic: header 0xE1, the point mod 128 under the state in bit
7, and the byte that makes the sum 0 mod 256 (R95, R98, R138). -/
def updateBytes (i : Nat) (st : Bool) : List Byte :=
  let u := 128 * st.toNat + i % 128
  [0xE1, BitVec.ofNat 8 u, BitVec.ofNat 8 (512 - (0xE1 + u))]

/-- One pass of the loop of `emit_diff`: the Update of a point, type 7, queued and recorded in R, or dropped, reported and
counted with R as it was (R187). -/
def State.noteUpdate (s : State) (p : Nat × Bool) : State :=
  if hasRoom s.txq.length s.params.txqDepth then
    { s.noteFrame (updateBytes p.1 p.2) 7 with r := setpt s.r p.1 p.2 }
  else s.noteFrame (updateBytes p.1 p.2) 7

/-- The point an Update payload byte names and the state it gives it, by arithmetic (R95, R96). -/
def namedPoint (u : Byte) : Nat := if u.toNat % 128 = 0 then 128 else u.toNat % 128

/-- The state an Update payload byte gives its point (R95). -/
def namedState (u : Byte) : Bool := decide (128 ≤ u.toNat)

/-- A state in which a valid frame has just been taken from ASM: ASM empty, HEARD set, IDLE_CNT clear (R141, R224). -/
def State.afterValidFrame (s : State) : State :=
  { s with asm := [], asmCnt := 0, heard := true, idleCnt := 0 }

/-- What every TICK does first, in every LinkState: IDLE_CNT and TXIDLE_CNT count, the health bit follows (R237, R243), and
a partial frame in ASM ages, discarded and reported as MESSAGE_TIMEOUT, 0x13, at S_LINKTO ticks (R238). The health bit
is recomputed after the LinkState's own arm, which neither reads nor writes V. -/
def State.afterTickTimers (s : State) : State :=
  let t := { s with
    idleCnt := BitVec.ofNat 32 (min (s.idleCnt.toNat + 1) 4294967295)
    txidleCnt := BitVec.ofNat 32 (min (s.txidleCnt.toNat + 1) 4294967295)
    v := setpt s.v 16 (s.heard && decide (min (s.idleCnt.toNat + 1) 4294967295 < s.sess.pollto.toNat)) }
  if s.asm = [] then t
  else if s.sess.linkto.toNat ≤ min (s.asmCnt.toNat + 1) 4294967295 then
    { t.noteWord (0x13000000 + s.asm.length) with failCnt := inc s.failCnt, asm := [], asmCnt := 0 }
  else { t with asmCnt := BitVec.ofNat 32 (min (s.asmCnt.toNat + 1) 4294967295) }

/-- V and R with the points 1 to L, but 16, taken from an All payload, and a BIT_CHANGED report, 0x30, for each point of V
that changed, ascending (R226, R228). -/
def State.afterAll (s : State) (payload : List Byte) : State :=
  (diff s.v (replaceVec s.v (bitsOf payload) s.len) s.len).foldl
    (fun t p => t.noteWord (0x30000000 + 256 * p.2.toNat + p.1))
    { s with v := replaceVec s.v (bitsOf payload) s.len, r := replaceVec s.r (bitsOf payload) s.len }

end Sys2Proof.Machine
end

