-- ==== Sys2Proof/Certificates/Slice0/Obligations.lean ====
section
/-! DEFINITION. The statements about the model. Each docstring names the rules of spec/ it rests on. `State.noteWord` and
`State.noteFrame` (Safety.lean) say "this report word is queued, or lost and RPT_OVF set" and "this frame is queued, or
dropped, reported and counted", with the word and the frame in the numbers of the spec's tables. An equation
`exec i s = .next t` with t written as an update of s is also the instruction's frame: what t does not name is s's. -/

open Sys2Proof Sys2Proof.Machine

/-! ## Encoding -/

/-- Decoding the encoding of a well-formed instruction gives it back, every operand at every value (R90, R91, R101 to
R103, R106). -/
def Obligations.EncodeThenDecodeReturnsTheInstruction : Prop :=
  ∀ i : Instr, i.wellFormed = true → decode (encode i) = .ok i

/-- An encoding the decoder accepts is the encoding of what it read, and no other: no bit is dropped (R101 to R104, R108,
R90, R99). -/
def Obligations.DecodedEncodingIsTheOnlyOne : Prop :=
  ∀ (x : Encoded) (i : Instr), decode x = .ok i → i.wellFormed = true ∧ encode i = x

/-- Words and frames written out in the spec decode to what the spec says they are (95_test_vectors.md sections 2 and 3;
R102, R137 to R139). -/
def Obligations.WrittenOutWordsDecode : Prop :=
  decode (.event 0x10000180) = .ok (.rxb true 0x80) ∧
  decode (.event 0x20000002) = .ok (.rxf .parity) ∧
  decode (.event 0x50000000) = .ok .tick ∧
  decode (.event 0x60000114) = .ok (.setbit true 20) ∧
  decode (.event 0x70000F80) = .ok (.wrstg 15 0x80) ∧
  decode (.event 0x80000010) = .ok (.loadall 16) ∧
  decode (.event 0x93000004) = .ok (.cfg 3 4) ∧
  decode (.event 0xD0000000) = .ok .rpttake ∧
  decode (.event 0xE0000000) = .ok (.reservedOpE 0) ∧
  decode (.frame [0x80, 0x80]) = .ok (.recallFrame 0x80) ∧
  decode (.frame [0xE1, 0x90, 0x8F]) = .ok (.updateFrame 0x90 0x8F) ∧
  decode (.frame [0x24, 0x01, 0x00, 0x00, 0x00, 0xDB]) = .ok (.allFrame [0x01, 0x00, 0x00, 0x00] 0xDB)

/-- A step consumes the oldest pending word and runs the instruction it decodes to; the output of the step before is gone
(R8, R20, R291). The pending words and the output are the model's own fields (notes/assumptions/3.md, 4.md). -/
def Obligations.StepRunsTheDecodedEvent : Prop :=
  ∀ (s : State) (w : EventWord) (rest : List EventWord) (i : Instr),
    s.input = w :: rest → decodeEvent w = .ok i → step s = exec i { s with input := rest, out := none }

/-- An RXB whose byte completes a frame of the opcode table does what that frame's row means: the frames run inside the
step that receives their last byte (R141, R99). That a frame is an instruction of its own is the model's reading
(notes/assumptions/5.md). -/
def Obligations.CompletedFrameRunsItsInstruction : Prop :=
  ∀ (s : State) (b : Byte) (i : Instr),
    decodeFrameRow (s.asm ++ [b]) = .ok i → exec (.rxb false b) s = exec i s

/-- Nothing stops the block: every instruction in every state, and every step, answers a next state (R326: no trap). With
no word pending a step leaves the state (the model's choice, notes/assumptions/3.md). -/
def Obligations.EveryInstructionAndStepCompletes : Prop :=
  (∀ (i : Instr) (s : State), ∃ t, exec i s = .next t) ∧ (∀ s : State, ∃ t, step s = .next t) ∧
  ∀ s : State, s.input = [] → step s = .next s

/-- An illegal event word does nothing but report ILLEGAL_COMMAND with its first failing reason (R290). That the decoder
rejects such a word and the step reports it is the model's reading (notes/assumptions/6.md). -/
def Obligations.IllegalWordsOnlyReport : Prop :=
  ∀ (s : State) (w : EventWord) (rest : List EventWord), s.input = w :: rest →
    ((opField w = 0x0 ∨ opField w = 0xE ∨ opField w = 0xF) →
      step s = .next (State.noteWord { s with input := rest, out := none } (0x60000000 + (opField w).toNat))) ∧
    (¬(opField w = 0x0 ∨ opField w = 0xE ∨ opField w = 0xF) → reservedBitsOf w ≠ 0 →
      step s = .next (State.noteWord { s with input := rest, out := none } (0x60000010 + (opField w).toNat))) ∧
    (opField w = 0x2 → reservedBitsOf w = 0 → 4 < w.toNat % 8 →
      step s = .next (State.noteWord { s with input := rest, out := none } 0x60000022))

/-- The reserved opcodes as instructions: ILLEGAL_COMMAND with reason 0 whatever the other bits are, and nothing else
(R105). -/
def Obligations.ReservedOpcodesOnlyReport : Prop :=
  ∀ (any : BitVec 28) (s : State),
    exec (.reservedOp0 any) s = .next (s.noteWord 0x60000000) ∧
    exec (.reservedOpE any) s = .next (s.noteWord 0x6000000E) ∧
    exec (.reservedOpF any) s = .next (s.noteWord 0x6000000F)

/-! ## Frame codec -/

/-- The codec's round trip, for every type, session and payload, and for every Update point (R143). -/
def Obligations.FrameRoundTrip : Prop :=
  (∀ (t : MsgType) (e : Nat) (p : List Byte), e ≤ 6 → p.length = expectedLen t e →
    ∃ f fr, codecEncode t p e = .ok f ∧ codecDecode f e = .ok fr ∧ fr.type = t ∧ fr.payload = p) ∧
  (∀ (e i : Nat) (b : Bool), 1 ≤ i → i ≤ 128 →
    ∃ f fr, codecEncode .msgUpdate [updByte i b] e = .ok f ∧ codecDecode f e = .ok fr ∧
      fr.body = .bodyUpdate i b)

/-- What decode accepts is exactly what encode makes: the frame's bytes are the encoding of its type and payload (R133,
R135). -/
def Obligations.DecodedFrameIsAnEncodedFrame : Prop :=
  ∀ (f : List Byte) (e : Nat) (fr : Frame), e ≤ 6 → codecDecode f e = .ok fr →
    codecEncode fr.type fr.payload e = .ok f

/-- Bytes whose sum is not 0 mod 256 are a checksum failure, whatever their type or length (R144). -/
def Obligations.BadSumIsAlwaysChecksumFailure : Prop :=
  ∀ (f : List Byte) (e : Nat), (f.map BitVec.toNat).sum % 256 ≠ 0 →
    codecDecode f e = .error .checksumFailure

/-- The All payload packer and unpacker, point by point (R140). -/
def Obligations.AllPayloadPacksPointsInOrder : Prop :=
  (∀ (x : VecReg) (m k i : Nat), k < m → i < 8 →
    ((vbytes x m)[k]?).map (fun b => b.getLsbD i) = some (pt x (8 * k + i + 1))) ∧
  (∀ (x : VecReg) (m : Nat), (vbytes x m).length = m) ∧
  (∀ (p : List Byte) (i : Nat), p.length ≤ 16 → 1 ≤ i → i ≤ 8 * p.length →
    some (pt (bitsOf p) i) = (p[(i - 1) / 8]?).map (fun b => b.getLsbD ((i - 1) % 8))) ∧
  (∀ (p : List Byte) (i : Nat), 8 * p.length < i → i ≤ 128 → pt (bitsOf p) i = false) ∧
  (∀ (x : VecReg) (e i : Nat), e ≤ 6 → 1 ≤ i → i ≤ 128 →
    pt (bitsOf (vbytes x (4 + 2 * e))) i = (decide (i ≤ 32 + 16 * e) && pt x i))

/-! ## Vector store -/

/-- A diff is the list of the points that differ, with the new values, in ascending order, and no longer than n (R180). -/
def Obligations.DiffIsTheAscendingListOfDifferences : Prop :=
  ∀ (a b : VecReg) (n : Nat),
    (∀ (i : Nat) (s : Bool), (i, s) ∈ diff a b n ↔ 1 ≤ i ∧ i ≤ n ∧ pt a i ≠ pt b i ∧ s = pt b i) ∧
    ((diff a b n).map Prod.fst).Pairwise (· < ·) ∧ (diff a b n).length ≤ n

/-- The four laws of diff, setpt, apply and replace, for every vector length the registers hold (R188). -/
def Obligations.DiffApplyReplaceLaws : Prop :=
  (∀ (x : VecReg) (n : Nat), diff x x n = []) ∧
  (∀ (a b : VecReg) (n i : Nat), n ≤ 128 → 1 ≤ i → i ≤ 128 →
    pt ((diff a b n).foldl (fun x p => setpt x p.1 p.2) a) i = if i ≤ n then pt b i else pt a i) ∧
  (∀ (a b : VecReg) (n i : Nat), n ≤ 128 → 1 ≤ i → i ≤ 128 →
    ((diff a b n).foldl
      (fun (x : Except StoreError VecReg) p => x.bind fun x => (applyPoint x p.1 p.2 n).map Prod.fst) (.ok a)).map
        (fun x => pt x i) = .ok (if i ≤ n ∧ i ≠ 16 then pt b i else pt a i)) ∧
  (∀ (x b : VecReg) (n : Nat), n ≤ 128 →
    diff (replaceVec x b n) b n = [] ∨ diff (replaceVec x b n) b n = [(16, pt b 16)])

/-- `emit_diff` is one Update per differing point in ascending order, whatever the room: each is queued and recorded in R,
or dropped, reported and counted with R as it was (R187, R186). With room for every frame all are queued, and nothing
is pending afterwards. -/
def Obligations.EmitDiffSendsEveryDifference : Prop :=
  (∀ s : State, s.emitDiff = (diff s.r s.v s.len).foldl State.noteUpdate s) ∧
  ∀ s : State,
    (∀ d, s.params.txqDepth = some d → s.txq.length + (diff s.r s.v s.len).length ≤ d) →
    s.emitDiff =
      { s with
        txq := s.txq ++ (diff s.r s.v s.len).map (fun p => updateBytes p.1 p.2)
        txidleCnt := if diff s.r s.v s.len = [] then s.txidleCnt else 0
        r := s.emitDiff.r } ∧
    ∀ i, 1 ≤ i → i ≤ 128 → pt s.emitDiff.r i = if i ≤ s.len then pt s.v i else pt s.r i

/-- `emit_diff` on a full TXQ: every Update is dropped, reported as TXQ_OVERFLOW with TYPE 7 (or RPT_OVF set) and counted;
TXQ and R stay, so every point stays pending (R186, R187, R358). -/
def Obligations.FullQueueKeepsUpdatesPending : Prop :=
  ∀ s : State, hasRoom s.txq.length s.params.txqDepth = false →
    s.emitDiff =
      { (List.replicate (diff s.r s.v s.len).length 0x70000007).foldl State.noteWord s with
        failCnt := BitVec.ofNat 32 (min (s.failCnt.toNat + (diff s.r s.v s.len).length) 4294967295) }

/-! ## Reception -/

/-- In Failed no byte and no frame is processed: RXB, RECALL, UPDATE and ALL change nothing (R141, R223). -/
def Obligations.FailedDropsReception : Prop :=
  ∀ (s : State) (sop : Bool) (b u c : Byte) (p : List Byte), s.lstate = .failed →
    exec (.rxb sop b) s = .next s ∧ exec (.recallFrame c) s = .next s ∧
    exec (.updateFrame u c) s = .next s ∧ exec (.allFrame p c) s = .next s

/-- A byte that does not complete its frame is buffered and restarts the link timer, and nothing else happens (R141, R99).
-/
def Obligations.RxbBuffersAPartialFrame : Prop :=
  ∀ (s : State) (sop : Bool) (b h : Byte) (rest : List Byte),
    s.lstate ≠ .failed → (sop = true → s.asm = []) → s.asm ++ [b] = h :: rest →
    rest.length ≠ h.toNat % 32 + 1 →
    exec (.rxb sop b) s = .next { s with asm := s.asm ++ [b], asmCnt := 0 }

/-- An SOP byte while a partial frame is buffered: INCOMPLETE_MESSAGE reported and counted, the partial frame gone, the
byte the first of a new frame (R141). -/
def Obligations.SopDropsThePartialFrame : Prop :=
  ∀ (s : State) (b : Byte), s.lstate ≠ .failed → s.asm ≠ [] → s.asm.length ≤ 33 →
    exec (.rxb true b) s =
      .next { s.noteWord (0x14000000 + s.asm.length) with
        failCnt := inc s.failCnt, asm := [b], asmCnt := 0 }

/-- A completed frame that fails decode is discarded, reported with its header and length, and counted: a bad sum first,
then an invalid type, then a wrong length (R135, R141). -/
def Obligations.RxbReportsAFrameThatFailsDecode : Prop :=
  ∀ (s : State) (sop : Bool) (b h : Byte) (rest : List Byte),
    s.lstate ≠ .failed → (sop = true → s.asm = []) → s.asm ++ [b] = h :: rest →
    rest.length = h.toNat % 32 + 1 →
    (((h :: rest).map BitVec.toNat).sum % 256 ≠ 0 →
      exec (.rxb sop b) s =
        .next { s.noteWord (0x10000000 + 256 * (rest.length + 1) + h.toNat) with
          failCnt := inc s.failCnt, asm := [], asmCnt := 0 }) ∧
    (((h :: rest).map BitVec.toNat).sum % 256 = 0 → h.toNat / 32 ≠ 1 → h.toNat / 32 ≠ 4 → h.toNat / 32 ≠ 7 →
      exec (.rxb sop b) s =
        .next { s.noteWord (0x11000000 + 256 * (rest.length + 1) + h.toNat) with
          failCnt := inc s.failCnt, asm := [], asmCnt := 0 }) ∧
    (((h :: rest).map BitVec.toNat).sum % 256 = 0 →
      (h.toNat / 32 = 1 ∧ h.toNat % 32 ≠ s.nb ∨ h.toNat / 32 = 4 ∧ h.toNat % 32 ≠ 0 ∨
        h.toNat / 32 = 7 ∧ h.toNat % 32 ≠ 1) →
      exec (.rxb sop b) s =
        .next { s.noteWord (0x12000000 + 256 * (rest.length + 1) + h.toNat) with
          failCnt := inc s.failCnt, asm := [], asmCnt := 0 })

/-- The frames of the table with a bad sum are checksum failures, and an ALL of another session's length is a length
failure; V, R and LSTATE are as before (R137 to R139, R141). -/
def Obligations.BadFramesOnlyReport : Prop :=
  ∀ (s : State) (u c : Byte) (p : List Byte), s.lstate ≠ .failed →
    (c ≠ 0x80 → exec (.recallFrame c) s =
      .next { s.noteWord 0x10000280 with failCnt := inc s.failCnt, asm := [], asmCnt := 0 }) ∧
    ((0xE1 + u.toNat + c.toNat) % 256 ≠ 0 → exec (.updateFrame u c) s =
      .next { s.noteWord 0x100003E1 with failCnt := inc s.failCnt, asm := [], asmCnt := 0 }) ∧
    (p.length ≤ 31 → (0x20 + p.length + (p.map BitVec.toNat).sum + c.toNat) % 256 ≠ 0 →
      exec (.allFrame p c) s =
        .next { s.noteWord (0x10000020 + 256 * (p.length + 2) + p.length) with
          failCnt := inc s.failCnt, asm := [], asmCnt := 0 }) ∧
    (p.length ≤ 31 → p.length ≠ s.nb → (0x20 + p.length + (p.map BitVec.toNat).sum + c.toNat) % 256 = 0 →
      exec (.allFrame p c) s =
        .next { s.noteWord (0x12000020 + 256 * (p.length + 2) + p.length) with
          failCnt := inc s.failCnt, asm := [], asmCnt := 0 })

/-- A transport fault is reported and counted in every LinkState, and nothing else changes (R252). -/
def Obligations.TransportFaultReportedAndCounted : Prop :=
  ∀ (k : TransportFault) (s : State),
    exec (.rxf k) s =
      .next { s.noteWord (0x20000000 + (match k with
          | .rxOverflow => 0 | .overrun => 1 | .parity => 2 | .framing => 3 | .txFull => 4)) with
        failCnt := inc s.failCnt }

/-- LIDLE: a Station in PoweredUp queues its Recall and awaits the answer; in every other case nothing happens (R250,
R220). -/
def Obligations.LineIdleMakesAStationRecall : Prop :=
  ∀ s : State,
    exec .lidle s = .next (
      if s.lstate = .poweredUp ∧ s.sess.role = .station then
        State.noteWord
          { s.noteFrame recallBytes 4 with
            priorFail := false, retryCnt := 0, respCnt := 0, puCnt := 0, lstate := .awaitingRecallResponse }
          0x01000001
      else s)

/-- LDOWN and CLOSE enter Failed from every other state, with their own causes; only LDOWN sets PRIOR_FAIL; in Failed
neither does anything (R221, R251, R282). -/
def Obligations.LinkDownAndCloseEnterFailed : Prop :=
  ∀ s : State,
    (s.lstate = .failed → exec .ldown s = .next s ∧ exec .close s = .next s) ∧
    (s.lstate ≠ .failed →
      exec .ldown s = .next (State.noteWord
        { s with lstate := .failed, fcause := .linkDown, priorFail := true, asm := [], asmCnt := 0, txq := [],
                 puCnt := 0, respCnt := 0 } 0x01000033) ∧
      exec .close s = .next (State.noteWord
        { s with lstate := .failed, fcause := .closed, asm := [], asmCnt := 0, txq := [],
                 puCnt := 0, respCnt := 0 } 0x01000043))

/-! ## Received frames -/

/-- A valid Recall, in every state but Failed, is answered with an All holding V, and R takes V if it was queued (R222,
R224, R225). -/
def Obligations.RecallIsAnsweredWithTheVector : Prop :=
  ∀ s : State, s.lstate ≠ .failed →
    exec (.recallFrame 0x80) s = .next (
      if hasRoom s.txq.length s.params.txqDepth then
        { s.afterValidFrame.noteFrame (frameBytes .msgAll (vbytes s.v s.nb)) 1 with r := s.v }
      else s.afterValidFrame.noteFrame (frameBytes .msgAll (vbytes s.v s.nb)) 1)

/-- A valid Update in Active: out of range reported; point 16 untouched; otherwise V and R take the point, and a change is
reported (R227, R224, R96). -/
def Obligations.UpdateAppliesInActive : Prop :=
  ∀ (s : State) (u c : Byte), s.lstate = .active → (0xE1 + u.toNat + c.toNat) % 256 = 0 →
    exec (.updateFrame u c) s = .next (
      if s.len < namedPoint u then s.afterValidFrame.noteWord (0x31000100 + namedPoint u)
      else if namedPoint u = 16 then s.afterValidFrame
      else if pt s.v (namedPoint u) = namedState u then
        { s.afterValidFrame with r := setpt s.r (namedPoint u) (namedState u) }
      else
        State.noteWord
          { s.afterValidFrame with
            v := setpt s.v (namedPoint u) (namedState u), r := setpt s.r (namedPoint u) (namedState u) }
          (0x30000000 + 256 * (namedState u).toNat + namedPoint u))

/-- A valid All in Active replaces V and R on points 1 to L but 16 and reports each change; in AwaitingRecallResponse it
does the same and enters Active (R226, R228, R224). -/
def Obligations.AllReplacesTheVector : Prop :=
  ∀ (s : State) (p : List Byte) (c : Byte), p.length = s.nb →
    (0x20 + p.length + (p.map BitVec.toNat).sum + c.toNat) % 256 = 0 →
    (s.lstate = .active → exec (.allFrame p c) s = .next (s.afterValidFrame.afterAll p)) ∧
    (s.lstate = .awaitingRecallResponse →
      exec (.allFrame p c) s = .next (State.noteWord
        { s.afterValidFrame.afterAll p with lstate := .active, retryCnt := 0, respCnt := 0 } 0x01000002))

/-- A valid Update or All that the state does not act on is reported, counts as a valid frame, and does nothing else
(R229, R224). -/
def Obligations.UnexpectedFramesOnlyReport : Prop :=
  ∀ (s : State) (u c : Byte) (p : List Byte),
    ((0xE1 + u.toNat + c.toNat) % 256 = 0 → s.lstate = .poweredUp →
      exec (.updateFrame u c) s = .next (s.afterValidFrame.noteWord 0x50000007)) ∧
    ((0xE1 + u.toNat + c.toNat) % 256 = 0 → s.lstate = .awaitingRecallResponse →
      exec (.updateFrame u c) s = .next (s.afterValidFrame.noteWord 0x50000017)) ∧
    (p.length = s.nb → (0x20 + p.length + (p.map BitVec.toNat).sum + c.toNat) % 256 = 0 → s.lstate = .poweredUp →
      exec (.allFrame p c) s = .next (s.afterValidFrame.noteWord 0x50000001))

/-! ## TICK -/

/-- Every TICK counts IDLE_CNT, counts or clears TXIDLE_CNT, and writes into V nothing but the health bit, 1 exactly if a
frame was heard less than S_POLLTO ticks ago; configuration, staging and HEARD are untouched (R237, R243, R183). -/
def Obligations.TickCountsAndRecomputesHealth : Prop :=
  ∀ s : State, ∃ t, exec .tick s = .next t ∧
    t.idleCnt = BitVec.ofNat 32 (min (s.idleCnt.toNat + 1) 4294967295) ∧
    (t.txidleCnt = BitVec.ofNat 32 (min (s.txidleCnt.toNat + 1) 4294967295) ∨ t.txidleCnt = 0) ∧
    t.v = setpt s.v 16
      (s.heard && decide (min (s.idleCnt.toNat + 1) 4294967295 < s.sess.pollto.toNat)) ∧
    t.heard = s.heard ∧ t.stg = s.stg ∧ t.cfg = s.cfg ∧ t.sess = s.sess ∧ t.params = s.params ∧
    t.input = s.input ∧ t.out = s.out

/-- TICK in PoweredUp: a Controller sends its Recall when PU_CNT reaches five seconds of ticks, a Station when a failure
precedes; otherwise, beside T1, T2 and T4, only a Controller's PU_CNT counts (R240, R7, R220). -/
def Obligations.TickSendsThePowerUpRecall : Prop :=
  ∀ s : State, s.lstate = .poweredUp → s.asm.length ≤ 33 →
    exec .tick s = .next (
      if s.sess.role = .controller ∧ 5 * s.params.ticksPerSecond ≤ min (s.puCnt.toNat + 1) 4294967295 ∨
          s.sess.role = .station ∧ s.priorFail = true then
        State.noteWord
          { s.afterTickTimers.noteFrame recallBytes 4 with
            priorFail := false, retryCnt := 0, respCnt := 0, puCnt := 0, lstate := .awaitingRecallResponse }
          0x01000001
      else if s.sess.role = .controller then
        { s.afterTickTimers with puCnt := BitVec.ofNat 32 (min (s.puCnt.toNat + 1) 4294967295) }
      else s.afterTickTimers)

/-- TICK in AwaitingRecallResponse: RESP_CNT counts; at S_RESPTO the timeout is reported and the Recall resent, or, with
the retries spent, the link fails (R241, R221). -/
def Obligations.TickRetriesThenFails : Prop :=
  ∀ s : State, s.lstate = .awaitingRecallResponse → s.asm.length ≤ 33 →
    exec .tick s = .next (
      if min (s.respCnt.toNat + 1) 4294967295 < s.sess.respto.toNat then
        { s.afterTickTimers with respCnt := BitVec.ofNat 32 (min (s.respCnt.toNat + 1) 4294967295) }
      else if s.retryCnt.toNat < s.sess.retry.toNat then
        State.noteFrame
          { s.afterTickTimers.noteWord (0x40000000 + s.retryCnt.toNat) with
            retryCnt := BitVec.ofNat 8 (s.retryCnt.toNat + 1), respCnt := 0 }
          recallBytes 4
      else
        State.noteWord
          { s.afterTickTimers.noteWord (0x40000000 + s.retryCnt.toNat) with
            lstate := .failed, fcause := .responseTimeout, priorFail := true, asm := [], asmCnt := 0, txq := [],
            puCnt := 0, respCnt := 0 }
          0x01000023)

/-- TICK in Active: at S_POLLTO ticks without a valid frame POLL_TIMEOUT is reported, the link fails and nothing is sent
(R242, R221, R325); before that the differences are sent, and then a Controller's keep-alive Recall when due (R244,
R245). -/
def Obligations.TickFailsOrServesAnActiveLink : Prop :=
  ∀ s : State, s.lstate = .active → s.asm.length ≤ 33 →
    (s.sess.pollto.toNat ≤ min (s.idleCnt.toNat + 1) 4294967295 →
      exec .tick s = .next (State.noteWord
        { s.afterTickTimers.noteWord 0x41000000 with
          lstate := .failed, fcause := .pollTimeout, priorFail := true, asm := [], asmCnt := 0, txq := [],
          puCnt := 0, respCnt := 0 }
        0x01000013)) ∧
    (min (s.idleCnt.toNat + 1) 4294967295 < s.sess.pollto.toNat →
      exec .tick s = .next (
        if s.sess.role = .controller ∧ s.sess.pollint ≠ 0 ∧
            s.sess.pollint.toNat ≤ s.afterTickTimers.emitDiff.txidleCnt.toNat then
          s.afterTickTimers.emitDiff.noteFrame recallBytes 4
        else s.afterTickTimers.emitDiff))

/-- TICK in Failed: the counters, the stale partial frame and the health bit are served, and nothing else happens (R236,
R239). -/
def Obligations.TickInFailedOnlyServesTimers : Prop :=
  ∀ s : State, s.lstate = .failed → s.asm.length ≤ 33 → exec .tick s = .next s.afterTickTimers

/-- TICK with a partial frame buffered: at S_LINKTO ticks since the last byte it is discarded, reported before anything
else of the step, and counted; before that only its timer counts, unless the step ends in Failed (R238, R325). -/
def Obligations.TickDiscardsAStalePartialFrame : Prop :=
  ∀ s : State, s.asm ≠ [] → s.asm.length ≤ 33 → ∃ t, exec .tick s = .next t ∧
    (if s.sess.linkto.toNat ≤ min (s.asmCnt.toNat + 1) 4294967295 then
      t.asm = [] ∧ t.asmCnt = 0 ∧ min (s.failCnt.toNat + 1) 4294967295 ≤ t.failCnt.toNat ∧
        (s.noteWord (0x13000000 + s.asm.length)).rptq <+: t.rptq
    else t.lstate ≠ .failed ∨ s.lstate = .failed → t.asm = s.asm ∧ t.asmCnt = inc s.asmCnt)

/-- TICK in Active with nothing pending and no timeout: V takes the health bit, and the keep-alive Recall is queued
exactly in a Controller whose S_POLLINT is not 0 and has passed without a frame queued (R244, R245). -/
def Obligations.TickPollsAnIdleActiveLink : Prop :=
  ∀ s : State, s.lstate = .active → s.asm = [] → min (s.idleCnt.toNat + 1) 4294967295 < s.sess.pollto.toNat →
    (∀ i, 1 ≤ i → i ≤ s.len → pt s.r i = pt (setpt s.v 16 s.heard) i) →
    exec .tick s = .next (
      if s.sess.role = .controller ∧ s.sess.pollint ≠ 0 ∧
          s.sess.pollint.toNat ≤ min (s.txidleCnt.toNat + 1) 4294967295 then
        State.noteFrame
          { s with idleCnt := inc s.idleCnt, txidleCnt := inc s.txidleCnt, v := setpt s.v 16 s.heard } recallBytes 4
      else { s with idleCnt := inc s.idleCnt, txidleCnt := inc s.txidleCnt, v := setpt s.v 16 s.heard })

/-- TICK in Active without a timeout and with room in TXQ leaves no point pending: R agrees with V, health bit included,
on points 1 to L (R244, R187). -/
def Obligations.TickSendsEveryPendingPoint : Prop :=
  ∀ s : State, s.lstate = .active →
    min (s.idleCnt.toNat + 1) 4294967295 < s.sess.pollto.toNat →
    (∀ d, s.params.txqDepth = some d → s.txq.length + s.len ≤ d) →
    ∃ t, exec .tick s = .next t ∧ t.lstate = .active ∧
      ∀ i, 1 ≤ i → i ≤ s.len → pt t.r i = pt t.v i

/-! ## Host events on the store -/

/-- SETBIT: an index outside 1 to L is reported and nothing changes; inside, the point is written unless it is 16,
LOCAL_APPLIED reports whether it changed, and in Active the differences are sent (R200, R181). -/
def Obligations.SetbitAppliesAndReports : Prop :=
  ∀ (st : Bool) (i : BitVec 8) (s : State),
    ((i.toNat = 0 ∨ s.len < i.toNat) →
      exec (.setbit st i) s = .next (s.noteWord (0x31000000 + i.toNat))) ∧
    (1 ≤ i.toNat → i.toNat ≤ s.len →
      let changed := decide (i.toNat ≠ 16) && (pt s.v i.toNat != st)
      let s1 := State.noteWord { s with v := if i.toNat = 16 then s.v else setpt s.v i.toNat st }
        (0x33000000 + 512 * changed.toNat + 256 * st.toNat + i.toNat)
      exec (.setbit st i) s = .next (if s.lstate = .active then s1.emitDiff else s1))

/-- WRSTG writes byte K of STG and leaves its other bytes and everything else (R201). -/
def Obligations.WrstgWritesOneStagingByte : Prop :=
  ∀ (k : BitVec 4) (b : Byte) (s : State), ∃ t,
    exec (.wrstg k b) s = .next t ∧ t = { s with stg := t.stg } ∧
      ∀ j, j < 16 → vbyte t.stg j = if j = k.toNat then b else vbyte s.stg j

/-- LOADALL: a byte count other than NB is reported and nothing changes; NB copies points 1 to L but 16 from STG into V,
keeps the rest, and in Active sends the differences (R202, R182). -/
def Obligations.LoadallCopiesTheStagingVector : Prop :=
  ∀ (n : BitVec 5) (s : State),
    (n.toNat ≠ s.nb → exec (.loadall n) s = .next (s.noteWord (0x32000000 + 256 * s.nb + n.toNat))) ∧
    (n.toNat = s.nb → ∃ v',
      (∀ i, 1 ≤ i → i ≤ 128 → pt v' i = if i ≤ s.len ∧ i ≠ 16 then pt s.stg i else pt s.v i) ∧
      exec (.loadall n) s =
        .next (if s.lstate = .active then State.emitDiff { s with v := v' } else { s with v := v' }))

/-! ## Control events -/

/-- CFG: a register above 7 or a value above its maximum is reported and nothing changes; otherwise that register alone
takes the value, and no session copy does (R280, R42 to R49, R52, R107). -/
def Obligations.CfgWritesOneRegister : Prop :=
  ∀ (r : BitVec 4) (v : BitVec 24) (s : State),
    (7 < r.toNat → exec (.cfg r v) s = .next (s.noteWord (0x61000000 + r.toNat))) ∧
    ((r = 0 ∧ 6 < v.toNat ∨ r = 1 ∧ 1 < v.toNat ∨ r = 5 ∧ 255 < v.toNat ∨ r = 6 ∧ 65535 < v.toNat) →
      exec (.cfg r v) s = .next (s.noteWord (0x61000010 + r.toNat))) ∧
    (r.toNat ≤ 7 →
      ¬(r = 0 ∧ 6 < v.toNat ∨ r = 1 ∧ 1 < v.toNat ∨ r = 5 ∧ 255 < v.toNat ∨ r = 6 ∧ 65535 < v.toNat) →
      ∃ t, exec (.cfg r v) s = .next t ∧ t = { s with cfg := t.cfg } ∧
        ∀ n, n ≤ 7 → (t.rdReg (BitVec.ofNat 8 (0x20 + n))).toNat =
          if n = r.toNat then v.toNat else (s.rdReg (BitVec.ofNat 8 (0x20 + n))).toNat)

/-- RESET, in every LinkState: the session is latched, V keeps points 1 to the new L but 16 and clears the rest, the
timers, ASM, TXQ and R are cleared, STATE 0 is reported; PRIOR_FAIL, FAIL_CNT, STG, CFG and the reports before stay
(R281, R47). -/
def Obligations.ResetReentersPoweredUp : Prop :=
  ∀ s : State, ∃ v',
    (∀ i, 1 ≤ i → i ≤ 128 →
      pt v' i = if i ≤ 32 + 16 * s.cfg.euc.toNat ∧ i ≠ 16 then pt s.v i else false) ∧
    exec .reset s = .next (State.noteWord
      { s with sess := s.cfg, v := v', r := 0, lstate := .poweredUp, fcause := .none, heard := false,
               puCnt := 0, respCnt := 0, retryCnt := 0, idleCnt := 0, txidleCnt := 0, asmCnt := 0,
               asm := [], txq := [] } 0x01000000)

/-- TXTAKE returns and removes the oldest frame exactly while a frame is queued and none is being received; otherwise it
returns none and changes nothing (R286). The value returned stands in the model's own field (notes/assumptions/4.md).
-/
def Obligations.TxtakeGivesTheOldestFrame : Prop :=
  ∀ s : State,
    (∀ f rest, s.txq = f :: rest → s.asm = [] →
      exec .txtake s = .next { s with out := some (.frame f), txq := rest }) ∧
    ((s.txq = [] ∨ s.asm ≠ []) → exec .txtake s = .next { s with out := none })

/-- RPTTAKE returns and removes the oldest report word, or returns none; RPT_OVF stays (R287). The value returned stands
in the model's own field (notes/assumptions/4.md). -/
def Obligations.RpttakeGivesTheOldestReport : Prop :=
  ∀ s : State,
    (∀ w rest, s.rptq = w :: rest → exec .rpttake s = .next { s with out := some (.report w), rptq := rest }) ∧
    (s.rptq = [] → exec .rpttake s = .next { s with out := none })

/-! ## The read port -/

/-- STATUS, field by field; the reserved bits read 0 (R51, R50, R21, R22). -/
def Obligations.StatusPacksItsFields : Prop :=
  ∀ s : State,
    (s.rdReg 0x00).toNat =
      (match s.lstate with | .poweredUp => 0 | .awaitingRecallResponse => 1 | .active => 2 | .failed => 3) +
      16 * (match s.fcause with
        | .none => 0 | .pollTimeout => 1 | .responseTimeout => 2 | .linkDown => 3 | .closed => 4) +
      256 * s.priorFail.toNat + 512 * s.heard.toNat + 1024 * s.rptOvf.toNat +
      2048 * (decide (s.txq ≠ []) && decide (s.asm = [])).toNat + 4096 * (decide (s.rptq ≠ [])).toNat +
      65536 * (pt s.v 16).toNat

/-- The vector words: bit b of word w of V, R and STG is point 32w + b + 1 (R76, R72). -/
def Obligations.ReadWordsShowPointsInOrder : Prop :=
  ∀ (s : State) (w b : Nat), w < 4 → b < 32 →
    (s.rdReg (BitVec.ofNat 8 (0x10 + w))).getLsbD b = pt s.v (32 * w + b + 1) ∧
    (s.rdReg (BitVec.ofNat 8 (0x14 + w))).getLsbD b = pt s.r (32 * w + b + 1) ∧
    (s.rdReg (BitVec.ofNat 8 (0x18 + w))).getLsbD b = pt s.stg (32 * w + b + 1)

/-- The rows of the read space beside STATUS and the vector words: counters, ASM, the queue counts, L and NB, the
configuration and the session; every address outside the table reads 0 (R72, R31, R50). -/
def Obligations.ReadPortShowsTheOtherRows : Prop :=
  ∀ s : State,
    (s.rdReg 0x01).toNat = s.failCnt.toNat ∧ (s.rdReg 0x02).toNat = s.retryCnt.toNat ∧
    (s.rdReg 0x03).toNat = s.idleCnt.toNat ∧ (s.rdReg 0x04).toNat = s.respCnt.toNat ∧
    (s.rdReg 0x05).toNat = s.puCnt.toNat ∧ (s.rdReg 0x06).toNat = s.txidleCnt.toNat ∧
    (s.asm.length ≤ 33 → (s.rdReg 0x07).toNat =
      s.asm.length + 256 * (match s.asm with | [] => 0 | h :: _ => h.toNat % 32 + 2)) ∧
    (s.rdReg 0x08).toNat = s.asmCnt.toNat ∧
    (s.rdReg 0x09).toNat = min s.txq.length 4294967295 ∧ (s.rdReg 0x0A).toNat = min s.rptq.length 4294967295 ∧
    (s.rdReg 0x0B).toNat = 32 + 16 * s.sess.euc.toNat + 256 * (4 + 2 * s.sess.euc.toNat) ∧
    (∀ b c, (b = 0x20 ∧ c = s.cfg ∨ b = 0x28 ∧ c = s.sess) →
      (s.rdReg b).toNat = c.euc.toNat ∧
      (s.rdReg (b + 1)).toNat = (match c.role with | .controller => 0 | .station => 1) ∧
      (s.rdReg (b + 2)).toNat = c.linkto.toNat ∧ (s.rdReg (b + 3)).toNat = c.pollto.toNat ∧
      (s.rdReg (b + 4)).toNat = c.respto.toNat ∧ (s.rdReg (b + 5)).toNat = c.retry.toNat ∧
      (s.rdReg (b + 6)).toNat = c.gapadj.toNat ∧ (s.rdReg (b + 7)).toNat = c.pollint.toNat) ∧
    (∀ a : BitVec 8, 0x0C ≤ a.toNat ∧ a.toNat ≤ 0x0F ∨ 0x1C ≤ a.toNat ∧ a.toNat ≤ 0x1F ∨ 0x30 ≤ a.toNat →
      s.rdReg a = 0)

/-! ## Whole-machine rules -/

/-- The power-on value of every element, for every parameter value (R350). -/
def Obligations.PowerOnValuesAreTheTable : Prop :=
  ∀ (p : Params) (s : State), s = State.powerOn p →
    s.lstate = .poweredUp ∧ s.fcause = .none ∧ s.priorFail = false ∧ s.heard = false ∧
    s.puCnt = 0 ∧ s.respCnt = 0 ∧ s.retryCnt = 0 ∧ s.idleCnt = 0 ∧ s.txidleCnt = 0 ∧ s.failCnt = 0 ∧
    s.asm = [] ∧ s.asmCnt = 0 ∧ s.v = 0 ∧ s.r = 0 ∧ s.stg = 0 ∧ s.txq = [] ∧ s.rptq = [] ∧ s.rptOvf = false ∧
    s.cfg.euc = 0 ∧ s.cfg.role = p.rstRole ∧ s.cfg.linkto = p.rstLinkto ∧ s.cfg.pollto = p.rstPollto ∧
    s.cfg.respto = p.rstRespto ∧ s.cfg.retry = p.rstRetry ∧ s.cfg.gapadj = p.rstGapadj ∧ s.cfg.pollint = 0 ∧
    s.sess = s.cfg

/-- The invariant of the block's state is kept by every step, from every state that meets it (R21 to R41, R185, R186,
R221; see `Inv`). -/
def Obligations.StepKeepsTheStateInvariant : Prop :=
  ∀ s t : State, Inv s → step s = .next t → Inv t

/-- Power-on meets the invariant, for every parameter value (R350, R352). Among them are the values the model's reset
state takes (notes/assumptions/1.md). -/
def Obligations.PowerOnMeetsTheStateInvariant : Prop :=
  (∀ p : Params, Inv (State.powerOn p)) ∧ Inv State.reset

/-- Every state the block reaches, under every schedule of the transport, the host and the ticks, meets the invariant
(R84, R38). Words are delivered to the model's own field (notes/assumptions/3.md). -/
def Obligations.EveryReachableStateMeetsTheInvariant : Prop :=
  ∀ (p : Params) (s : State), Reachable p s → Inv s

/-- From power-on, every interleaving of the three sources' words is run to its end, one word a step, none lost and none
added, and leaves a state that meets the invariant (R84, R8). That the words stand in the state is the model's choice
(notes/assumptions/3.md). -/
def Obligations.EveryScheduleRunsToItsEnd : Prop :=
  ∀ (p : Params) (transport host ticks merged : List EventWord), IsSchedule transport host ticks merged →
    merged.length = transport.length + host.length + ticks.length ∧
    ∃ s : State, Sys2Proof.core.run merged.length { State.powerOn p with input := merged } = .next s ∧
      s.input = [] ∧ Inv s

/-- LSTATE and FCAUSE change in no other way than the transition table lists (R255). -/
def Obligations.LinkStateChangesOnlyByTheTable : Prop :=
  ∀ (i : Instr) (s t : State), Inv s → exec i s = .next t →
    (i ≠ .reset ∧ t.lstate = s.lstate ∧ t.fcause = s.fcause) ∨
    (i = .reset ∧ t.lstate = .poweredUp ∧ t.fcause = .none) ∨
    (i = .tick ∧ s.lstate = .poweredUp ∧ s.sess.role = .controller ∧
      5 * s.params.ticksPerSecond ≤ min (s.puCnt.toNat + 1) 4294967295 ∧
      t.lstate = .awaitingRecallResponse ∧ t.fcause = .none) ∨
    (i = .tick ∧ s.lstate = .poweredUp ∧ s.sess.role = .station ∧ s.priorFail = true ∧
      t.lstate = .awaitingRecallResponse ∧ t.fcause = .none) ∨
    (i = .lidle ∧ s.lstate = .poweredUp ∧ s.sess.role = .station ∧
      t.lstate = .awaitingRecallResponse ∧ t.fcause = .none) ∨
    ((∃ f fr bits, (∃ b, i = .rxb false b ∧ f = s.asm ++ [b] ∨
          ∃ p c, i = .allFrame p c ∧ Encoded.frame f = encode i) ∧
        codecDecode f s.sess.euc.toNat = .ok fr ∧ fr.body = .bodyAll bits) ∧
      s.lstate = .awaitingRecallResponse ∧ t.lstate = .active ∧ t.fcause = .none) ∨
    (i = .tick ∧ s.lstate = .awaitingRecallResponse ∧
      s.sess.respto.toNat ≤ min (s.respCnt.toNat + 1) 4294967295 ∧ s.retryCnt = s.sess.retry ∧
      t.lstate = .failed ∧ t.fcause = .responseTimeout) ∨
    (i = .tick ∧ s.lstate = .active ∧ s.sess.pollto.toNat ≤ min (s.idleCnt.toNat + 1) 4294967295 ∧
      t.lstate = .failed ∧ t.fcause = .pollTimeout) ∨
    (i = .ldown ∧ s.lstate ≠ .failed ∧ t.lstate = .failed ∧ t.fcause = .linkDown) ∨
    (i = .close ∧ s.lstate ≠ .failed ∧ t.lstate = .failed ∧ t.fcause = .closed)

/-- Point 16 of V is written by TICK alone, and cleared by RESET: no local event and no peer frame changes it (R37). -/
def Obligations.OnlyTickAndResetWriteTheHealthBit : Prop :=
  ∀ (i : Instr) (s t : State), exec i s = .next t →
    (i ≠ .tick → i ≠ .reset → pt t.v 16 = pt s.v 16) ∧ (i = .reset → pt t.v 16 = false)

/-- The session copies are loaded from the CFG registers at power-on and by RESET, and written by nothing else; the CFG
registers are written by CFG alone and read by no instruction but RESET: any but RESET and CFG does the same whatever
they hold; STG is written by WRSTG alone (R47, R35, R280, R281, R355). -/
def Obligations.ConfigurationTakesEffectOnlyAtReset : Prop :=
  (∀ p : Params, (State.powerOn p).sess = (State.powerOn p).cfg) ∧
  ∀ (i : Instr) (s t : State), exec i s = .next t →
    (i = .reset → t.sess = s.cfg) ∧ (i ≠ .reset → t.sess = s.sess) ∧
    ((∀ r v, i ≠ .cfg r v) → t.cfg = s.cfg) ∧ ((∀ k b, i ≠ .wrstg k b) → t.stg = s.stg) ∧
    (i ≠ .reset → (∀ r v, i ≠ .cfg r v) → ∀ c : ConfigRegs, exec i { s with cfg := c } = .next { t with cfg := c })

/-- In Failed, nothing but RESET leaves the state, changes its cause, queues a frame or changes what the peer is held to
know (R21, R239, R221). -/
def Obligations.FailedIsTerminalUntilReset : Prop :=
  ∀ (i : Instr) (s t : State), s.lstate = .failed → i ≠ .reset → exec i s = .next t →
    t.lstate = .failed ∧ t.fcause = s.fcause ∧ t.priorFail = s.priorFail ∧ t.r = s.r ∧ t.asm.length ≤ s.asm.length ∧
    (t.txq = s.txq ∨ ∃ f, i = .txtake ∧ s.txq = f :: t.txq)

/-- What a peer's bytes and frames cannot do: write point 16 or a point above L, configuration or staging, clear FAIL_CNT
or RPT_OVF, fail, close or reset the link (R328). -/
def Obligations.PeerAuthorityIsLimited : Prop :=
  ∀ (i : Instr) (s t : State),
    ((∃ sop b, i = .rxb sop b) ∨ (∃ c, i = .recallFrame c) ∨ (∃ u c, i = .updateFrame u c) ∨
      (∃ p c, i = .allFrame p c)) →
    exec i s = .next t →
    pt t.v 16 = pt s.v 16 ∧ t.cfg = s.cfg ∧ t.sess = s.sess ∧ t.stg = s.stg ∧
    s.failCnt.toNat ≤ t.failCnt.toNat ∧ (s.rptOvf = true → t.rptOvf = true) ∧ t.priorFail = s.priorFail ∧
    t.fcause = s.fcause ∧ t.puCnt = s.puCnt ∧
    (t.lstate = s.lstate ∨ s.lstate = .awaitingRecallResponse ∧ t.lstate = .active) ∧
    (Inv s → ∀ k, s.len < k → k ≤ 128 → pt t.v k = pt s.v k ∧ pt t.r k = pt s.r k)

/-- RPT_OVF is sticky, FAIL_CNT never falls, and the report queue loses nothing but the word RPTTAKE returns: no event
clears them (R30, R40, R41). -/
def Obligations.ReportsAndFailuresAreNeverForgotten : Prop :=
  ∀ (i : Instr) (s t : State), exec i s = .next t →
    (s.rptOvf = true → t.rptOvf = true) ∧ s.failCnt.toNat ≤ t.failCnt.toNat ∧
    (i ≠ .rpttake → s.rptq <+: t.rptq)

/-- A frame leaves the block only through TXTAKE and only while no frame is being received, and a report only through
RPTTAKE; each is the oldest of its queue (R85, R39, R40). No instruction writes the parameters or the pending words
(the model's own fields: notes/assumptions/2.md, 3.md, 4.md). -/
def Obligations.OutputsLeaveOnlyThroughTheirQueues : Prop :=
  ∀ (i : Instr) (s t : State), s.out = none → exec i s = .next t →
    (∀ f, t.out = some (.frame f) → i = .txtake ∧ s.asm = [] ∧ s.txq = f :: t.txq) ∧
    (∀ w, t.out = some (.report w) → i = .rpttake ∧ s.rptq = w :: t.rptq) ∧
    t.params = s.params ∧ t.input = s.input

/-- A step of one link's block is that block's step of its own state alone, and leaves every other link's block as it was
(R330). That a platform is a list of states is the model's choice (notes/assumptions/11.md). -/
def Obligations.LinksShareNoState : Prop :=
  ∀ (links links' : List State) (k : Nat), stepLink links k = .next links' →
    links'.length = links.length ∧ (∀ j, j ≠ k → links'[j]? = links[j]?) ∧
    ∀ s t, links[k]? = some s → step s = .next t → links'[k]? = some t

/-- Each assembler form expands to the encodings of its instructions, in order, and a program to its lines' words in
order; `.WORD` gives its word, and an RXF of a number above 4 the word R106 makes illegal. So no other form gives a
reserved opcode, a set reserved bit or a bad KIND (R109, R110). -/
def Obligations.AssemblerFormsAreTheirInstructionsInOrder : Prop :=
  (∀ (b : Byte) (kind : TransportFault) (index : BitVec 8) (state : Bool) (k : BitVec 4) (n : BitVec 5) (v : BitVec 24),
    (AsmLine.rxb b).words.map .event = [encode (.rxb false b)] ∧
    (AsmLine.rxbSop b).words.map .event = [encode (.rxb true b)] ∧
    (AsmLine.rxf kind.code).words.map .event = [encode (.rxf kind)] ∧
    AsmLine.lidle.words.map .event = [encode .lidle] ∧ AsmLine.ldown.words.map .event = [encode .ldown] ∧
    AsmLine.tick.words.map .event = [encode .tick] ∧ AsmLine.reset.words.map .event = [encode .reset] ∧
    AsmLine.close.words.map .event = [encode .close] ∧ AsmLine.txtake.words.map .event = [encode .txtake] ∧
    AsmLine.rpttake.words.map .event = [encode .rpttake] ∧
    (AsmLine.setbit index state).words.map .event = [encode (.setbit state index)] ∧
    (AsmLine.wrstg k b).words.map .event = [encode (.wrstg k b)] ∧
    (AsmLine.loadall n).words.map .event = [encode (.loadall n)] ∧
    (AsmLine.cfg k v).words.map .event = [encode (.cfg k v)]) ∧
  (∀ k : BitVec 3, (AsmLine.rxf k).words = [BitVec.ofNat 32 (0x20000000 + k.toNat)]) ∧
  (∀ w : EventWord, (AsmLine.word w).words = [w]) ∧
  (∀ n : Nat, (AsmLine.ticks n).words.map .event = List.replicate n (encode .tick)) ∧
  (∀ (first : Byte) (bytes : List Byte),
    (AsmLine.rxframe bytes).words.map .event = bytes.map (fun b => encode (.rxb false b)) ∧
    (AsmLine.rxframeSop first bytes).words.map .event =
      encode (.rxb true first) :: bytes.map (fun b => encode (.rxb false b)) ∧
    (AsmLine.wrstgv bytes).words.length = bytes.length ∧
    ∀ (k : BitVec 4) (b : Byte), bytes[k.toNat]? = some b →
      ((AsmLine.wrstgv bytes).words.map Encoded.event)[k.toNat]? = some (encode (.wrstg k b))) ∧
  (∀ (l : AsmLine) (rest : List AsmLine), asmWords [] = [] ∧ asmWords (l :: rest) = l.words ++ asmWords rest) ∧
  ∀ (l : AsmLine) (w : EventWord), (∀ x, l ≠ .word x) → (∀ k, l = .rxf k → k.toNat ≤ 4) → w ∈ l.words →
    ∃ i, decodeEvent w = .ok i ∧ (∀ a, i ≠ .reservedOp0 a) ∧ (∀ a, i ≠ .reservedOpE a) ∧ (∀ a, i ≠ .reservedOpF a)
end

