-- ==== Sys2Proof/Laws/Codec.lean ====
section
/-! SUPPORT. Facts about the codec's functions: the header's fields and the additive checksum
(spec/40_frame_codec.md R131, R132). -/

namespace Sys2Proof.Machine

@[simp] theorem hdrType_packHeader (t : BitVec 3) (n : BitVec 5) : hdrType (packHeader t n) = t := by
  revert t n; decide +kernel

@[simp] theorem hdrLen_packHeader (t : BitVec 3) (n : BitVec 5) : hdrLen (packHeader t n) = n := by
  revert t n; decide +kernel

@[simp] theorem ofCode_code (t : MsgType) : MsgType.ofCode t.code = some t := by cases t <;> rfl

@[simp] theorem sum8_nil : sum8 [] = 0 := rfl

@[simp] theorem sum8_cons (b : Byte) (f : List Byte) : sum8 (b :: f) = b + sum8 f := rfl

theorem sum8_append (f g : List Byte) : sum8 (f ++ g) = sum8 f + sum8 g := by
  induction f with
  | nil => simp
  | cons b f ih => simp [ih, BitVec.add_assoc]

/-- The first byte of a frame is its header. -/
@[simp] theorem frameBytes_headD (t : MsgType) (p : List Byte) :
    (frameBytes t p).headD 0 = packHeader t.code (BitVec.ofNat 5 p.length) := rfl

@[simp] theorem frameBytes_length (t : MsgType) (p : List Byte) : (frameBytes t p).length = p.length + 2 := by
  simp [frameBytes]

@[simp] theorem vbytes_length (x : VecReg) (m : Nat) : (vbytes x m).length = m := by simp [vbytes]

/-- The block asks `encode` only for payloads of their type's length (R133). -/
theorem codecEncode_ok (t : MsgType) (p : List Byte) (e : Nat) (h : p.length = expectedLen t e) :
    codecEncode t p e = .ok (frameBytes t p) := by simp [codecEncode, h]

end Sys2Proof.Machine
end

