-- ==== Sys2Proof/Laws/State.lean ====
section
/-! SUPPORT. What each shared operation leaves of the state, field by field: one lemma for each field an operation keeps,
and one for each field it sets outright. They are tagged for the simplifier, so that no later proof unfolds an
operation to see a field. -/

namespace Sys2Proof.Machine

/-- A field every pass of a loop keeps, the loop keeps. -/
theorem foldl_field {σ α β : Type} (f : σ → α → σ) (g : σ → β) (h : ∀ s a, g (f s a) = g s) (l : List α) (s : σ) :
    g (l.foldl f s) = g s := by
  induction l generalizing s with
  | nil => rfl
  | cons a l ih => simpa [h] using ih (f s a)

/-! ### `report` -/
@[simp] theorem report_params (s : State) (c : ReportCode) (x : Info) : (s.report c x).params = s.params := by unfold State.report; split <;> rfl
@[simp] theorem report_input (s : State) (c : ReportCode) (x : Info) : (s.report c x).input = s.input := by unfold State.report; split <;> rfl
@[simp] theorem report_out (s : State) (c : ReportCode) (x : Info) : (s.report c x).out = s.out := by unfold State.report; split <;> rfl
@[simp] theorem report_lstate (s : State) (c : ReportCode) (x : Info) : (s.report c x).lstate = s.lstate := by unfold State.report; split <;> rfl
@[simp] theorem report_fcause (s : State) (c : ReportCode) (x : Info) : (s.report c x).fcause = s.fcause := by unfold State.report; split <;> rfl
@[simp] theorem report_priorFail (s : State) (c : ReportCode) (x : Info) : (s.report c x).priorFail = s.priorFail := by unfold State.report; split <;> rfl
@[simp] theorem report_heard (s : State) (c : ReportCode) (x : Info) : (s.report c x).heard = s.heard := by unfold State.report; split <;> rfl
@[simp] theorem report_puCnt (s : State) (c : ReportCode) (x : Info) : (s.report c x).puCnt = s.puCnt := by unfold State.report; split <;> rfl
@[simp] theorem report_respCnt (s : State) (c : ReportCode) (x : Info) : (s.report c x).respCnt = s.respCnt := by unfold State.report; split <;> rfl
@[simp] theorem report_retryCnt (s : State) (c : ReportCode) (x : Info) : (s.report c x).retryCnt = s.retryCnt := by unfold State.report; split <;> rfl
@[simp] theorem report_idleCnt (s : State) (c : ReportCode) (x : Info) : (s.report c x).idleCnt = s.idleCnt := by unfold State.report; split <;> rfl
@[simp] theorem report_txidleCnt (s : State) (c : ReportCode) (x : Info) : (s.report c x).txidleCnt = s.txidleCnt := by unfold State.report; split <;> rfl
@[simp] theorem report_failCnt (s : State) (c : ReportCode) (x : Info) : (s.report c x).failCnt = s.failCnt := by unfold State.report; split <;> rfl
@[simp] theorem report_asm (s : State) (c : ReportCode) (x : Info) : (s.report c x).asm = s.asm := by unfold State.report; split <;> rfl
@[simp] theorem report_asmCnt (s : State) (c : ReportCode) (x : Info) : (s.report c x).asmCnt = s.asmCnt := by unfold State.report; split <;> rfl
@[simp] theorem report_v (s : State) (c : ReportCode) (x : Info) : (s.report c x).v = s.v := by unfold State.report; split <;> rfl
@[simp] theorem report_r (s : State) (c : ReportCode) (x : Info) : (s.report c x).r = s.r := by unfold State.report; split <;> rfl
@[simp] theorem report_stg (s : State) (c : ReportCode) (x : Info) : (s.report c x).stg = s.stg := by unfold State.report; split <;> rfl
@[simp] theorem report_txq (s : State) (c : ReportCode) (x : Info) : (s.report c x).txq = s.txq := by unfold State.report; split <;> rfl
@[simp] theorem report_cfg (s : State) (c : ReportCode) (x : Info) : (s.report c x).cfg = s.cfg := by unfold State.report; split <;> rfl
@[simp] theorem report_sess (s : State) (c : ReportCode) (x : Info) : (s.report c x).sess = s.sess := by unfold State.report; split <;> rfl

/-! ### `countFailure` -/
@[simp] theorem countFailure_params (s : State) : (s.countFailure).params = s.params := rfl
@[simp] theorem countFailure_input (s : State) : (s.countFailure).input = s.input := rfl
@[simp] theorem countFailure_out (s : State) : (s.countFailure).out = s.out := rfl
@[simp] theorem countFailure_lstate (s : State) : (s.countFailure).lstate = s.lstate := rfl
@[simp] theorem countFailure_fcause (s : State) : (s.countFailure).fcause = s.fcause := rfl
@[simp] theorem countFailure_priorFail (s : State) : (s.countFailure).priorFail = s.priorFail := rfl
@[simp] theorem countFailure_heard (s : State) : (s.countFailure).heard = s.heard := rfl
@[simp] theorem countFailure_puCnt (s : State) : (s.countFailure).puCnt = s.puCnt := rfl
@[simp] theorem countFailure_respCnt (s : State) : (s.countFailure).respCnt = s.respCnt := rfl
@[simp] theorem countFailure_retryCnt (s : State) : (s.countFailure).retryCnt = s.retryCnt := rfl
@[simp] theorem countFailure_idleCnt (s : State) : (s.countFailure).idleCnt = s.idleCnt := rfl
@[simp] theorem countFailure_txidleCnt (s : State) : (s.countFailure).txidleCnt = s.txidleCnt := rfl
@[simp] theorem countFailure_asm (s : State) : (s.countFailure).asm = s.asm := rfl
@[simp] theorem countFailure_asmCnt (s : State) : (s.countFailure).asmCnt = s.asmCnt := rfl
@[simp] theorem countFailure_v (s : State) : (s.countFailure).v = s.v := rfl
@[simp] theorem countFailure_r (s : State) : (s.countFailure).r = s.r := rfl
@[simp] theorem countFailure_stg (s : State) : (s.countFailure).stg = s.stg := rfl
@[simp] theorem countFailure_txq (s : State) : (s.countFailure).txq = s.txq := rfl
@[simp] theorem countFailure_rptq (s : State) : (s.countFailure).rptq = s.rptq := rfl
@[simp] theorem countFailure_rptOvf (s : State) : (s.countFailure).rptOvf = s.rptOvf := rfl
@[simp] theorem countFailure_cfg (s : State) : (s.countFailure).cfg = s.cfg := rfl
@[simp] theorem countFailure_sess (s : State) : (s.countFailure).sess = s.sess := rfl
@[simp] theorem countFailure_failCnt (s : State) : (s.countFailure).failCnt = inc s.failCnt := rfl

/-! ### `clearAsm` -/
@[simp] theorem clearAsm_params (s : State) : (s.clearAsm).params = s.params := rfl
@[simp] theorem clearAsm_input (s : State) : (s.clearAsm).input = s.input := rfl
@[simp] theorem clearAsm_out (s : State) : (s.clearAsm).out = s.out := rfl
@[simp] theorem clearAsm_lstate (s : State) : (s.clearAsm).lstate = s.lstate := rfl
@[simp] theorem clearAsm_fcause (s : State) : (s.clearAsm).fcause = s.fcause := rfl
@[simp] theorem clearAsm_priorFail (s : State) : (s.clearAsm).priorFail = s.priorFail := rfl
@[simp] theorem clearAsm_heard (s : State) : (s.clearAsm).heard = s.heard := rfl
@[simp] theorem clearAsm_puCnt (s : State) : (s.clearAsm).puCnt = s.puCnt := rfl
@[simp] theorem clearAsm_respCnt (s : State) : (s.clearAsm).respCnt = s.respCnt := rfl
@[simp] theorem clearAsm_retryCnt (s : State) : (s.clearAsm).retryCnt = s.retryCnt := rfl
@[simp] theorem clearAsm_idleCnt (s : State) : (s.clearAsm).idleCnt = s.idleCnt := rfl
@[simp] theorem clearAsm_txidleCnt (s : State) : (s.clearAsm).txidleCnt = s.txidleCnt := rfl
@[simp] theorem clearAsm_failCnt (s : State) : (s.clearAsm).failCnt = s.failCnt := rfl
@[simp] theorem clearAsm_v (s : State) : (s.clearAsm).v = s.v := rfl
@[simp] theorem clearAsm_r (s : State) : (s.clearAsm).r = s.r := rfl
@[simp] theorem clearAsm_stg (s : State) : (s.clearAsm).stg = s.stg := rfl
@[simp] theorem clearAsm_txq (s : State) : (s.clearAsm).txq = s.txq := rfl
@[simp] theorem clearAsm_rptq (s : State) : (s.clearAsm).rptq = s.rptq := rfl
@[simp] theorem clearAsm_rptOvf (s : State) : (s.clearAsm).rptOvf = s.rptOvf := rfl
@[simp] theorem clearAsm_cfg (s : State) : (s.clearAsm).cfg = s.cfg := rfl
@[simp] theorem clearAsm_sess (s : State) : (s.clearAsm).sess = s.sess := rfl
@[simp] theorem clearAsm_asm (s : State) : (s.clearAsm).asm = [] := rfl
@[simp] theorem clearAsm_asmCnt (s : State) : (s.clearAsm).asmCnt = 0 := rfl

/-! ### `setReported` -/
@[simp] theorem setReported_params (s : State) (i : Nat) (b : Bool) : (s.setReported i b).params = s.params := rfl
@[simp] theorem setReported_input (s : State) (i : Nat) (b : Bool) : (s.setReported i b).input = s.input := rfl
@[simp] theorem setReported_out (s : State) (i : Nat) (b : Bool) : (s.setReported i b).out = s.out := rfl
@[simp] theorem setReported_lstate (s : State) (i : Nat) (b : Bool) : (s.setReported i b).lstate = s.lstate := rfl
@[simp] theorem setReported_fcause (s : State) (i : Nat) (b : Bool) : (s.setReported i b).fcause = s.fcause := rfl
@[simp] theorem setReported_priorFail (s : State) (i : Nat) (b : Bool) : (s.setReported i b).priorFail = s.priorFail := rfl
@[simp] theorem setReported_heard (s : State) (i : Nat) (b : Bool) : (s.setReported i b).heard = s.heard := rfl
@[simp] theorem setReported_puCnt (s : State) (i : Nat) (b : Bool) : (s.setReported i b).puCnt = s.puCnt := rfl
@[simp] theorem setReported_respCnt (s : State) (i : Nat) (b : Bool) : (s.setReported i b).respCnt = s.respCnt := rfl
@[simp] theorem setReported_retryCnt (s : State) (i : Nat) (b : Bool) : (s.setReported i b).retryCnt = s.retryCnt := rfl
@[simp] theorem setReported_idleCnt (s : State) (i : Nat) (b : Bool) : (s.setReported i b).idleCnt = s.idleCnt := rfl
@[simp] theorem setReported_txidleCnt (s : State) (i : Nat) (b : Bool) : (s.setReported i b).txidleCnt = s.txidleCnt := rfl
@[simp] theorem setReported_failCnt (s : State) (i : Nat) (b : Bool) : (s.setReported i b).failCnt = s.failCnt := rfl
@[simp] theorem setReported_asm (s : State) (i : Nat) (b : Bool) : (s.setReported i b).asm = s.asm := rfl
@[simp] theorem setReported_asmCnt (s : State) (i : Nat) (b : Bool) : (s.setReported i b).asmCnt = s.asmCnt := rfl
@[simp] theorem setReported_v (s : State) (i : Nat) (b : Bool) : (s.setReported i b).v = s.v := rfl
@[simp] theorem setReported_stg (s : State) (i : Nat) (b : Bool) : (s.setReported i b).stg = s.stg := rfl
@[simp] theorem setReported_txq (s : State) (i : Nat) (b : Bool) : (s.setReported i b).txq = s.txq := rfl
@[simp] theorem setReported_rptq (s : State) (i : Nat) (b : Bool) : (s.setReported i b).rptq = s.rptq := rfl
@[simp] theorem setReported_rptOvf (s : State) (i : Nat) (b : Bool) : (s.setReported i b).rptOvf = s.rptOvf := rfl
@[simp] theorem setReported_cfg (s : State) (i : Nat) (b : Bool) : (s.setReported i b).cfg = s.cfg := rfl
@[simp] theorem setReported_sess (s : State) (i : Nat) (b : Bool) : (s.setReported i b).sess = s.sess := rfl
@[simp] theorem setReported_r (s : State) (i : Nat) (b : Bool) : (s.setReported i b).r = setpt s.r i b := rfl

/-! ### `latchSession` -/
@[simp] theorem latchSession_params (s : State) : (s.latchSession).params = s.params := rfl
@[simp] theorem latchSession_input (s : State) : (s.latchSession).input = s.input := rfl
@[simp] theorem latchSession_out (s : State) : (s.latchSession).out = s.out := rfl
@[simp] theorem latchSession_lstate (s : State) : (s.latchSession).lstate = s.lstate := rfl
@[simp] theorem latchSession_fcause (s : State) : (s.latchSession).fcause = s.fcause := rfl
@[simp] theorem latchSession_priorFail (s : State) : (s.latchSession).priorFail = s.priorFail := rfl
@[simp] theorem latchSession_heard (s : State) : (s.latchSession).heard = s.heard := rfl
@[simp] theorem latchSession_puCnt (s : State) : (s.latchSession).puCnt = s.puCnt := rfl
@[simp] theorem latchSession_respCnt (s : State) : (s.latchSession).respCnt = s.respCnt := rfl
@[simp] theorem latchSession_retryCnt (s : State) : (s.latchSession).retryCnt = s.retryCnt := rfl
@[simp] theorem latchSession_idleCnt (s : State) : (s.latchSession).idleCnt = s.idleCnt := rfl
@[simp] theorem latchSession_txidleCnt (s : State) : (s.latchSession).txidleCnt = s.txidleCnt := rfl
@[simp] theorem latchSession_failCnt (s : State) : (s.latchSession).failCnt = s.failCnt := rfl
@[simp] theorem latchSession_asm (s : State) : (s.latchSession).asm = s.asm := rfl
@[simp] theorem latchSession_asmCnt (s : State) : (s.latchSession).asmCnt = s.asmCnt := rfl
@[simp] theorem latchSession_v (s : State) : (s.latchSession).v = s.v := rfl
@[simp] theorem latchSession_r (s : State) : (s.latchSession).r = s.r := rfl
@[simp] theorem latchSession_stg (s : State) : (s.latchSession).stg = s.stg := rfl
@[simp] theorem latchSession_txq (s : State) : (s.latchSession).txq = s.txq := rfl
@[simp] theorem latchSession_rptq (s : State) : (s.latchSession).rptq = s.rptq := rfl
@[simp] theorem latchSession_rptOvf (s : State) : (s.latchSession).rptOvf = s.rptOvf := rfl
@[simp] theorem latchSession_cfg (s : State) : (s.latchSession).cfg = s.cfg := rfl
@[simp] theorem latchSession_sess (s : State) : (s.latchSession).sess = s.cfg := rfl

/-! ### `heardFrame` -/
@[simp] theorem heardFrame_params (s : State) : (s.heardFrame).params = s.params := rfl
@[simp] theorem heardFrame_input (s : State) : (s.heardFrame).input = s.input := rfl
@[simp] theorem heardFrame_out (s : State) : (s.heardFrame).out = s.out := rfl
@[simp] theorem heardFrame_lstate (s : State) : (s.heardFrame).lstate = s.lstate := rfl
@[simp] theorem heardFrame_fcause (s : State) : (s.heardFrame).fcause = s.fcause := rfl
@[simp] theorem heardFrame_priorFail (s : State) : (s.heardFrame).priorFail = s.priorFail := rfl
@[simp] theorem heardFrame_puCnt (s : State) : (s.heardFrame).puCnt = s.puCnt := rfl
@[simp] theorem heardFrame_respCnt (s : State) : (s.heardFrame).respCnt = s.respCnt := rfl
@[simp] theorem heardFrame_retryCnt (s : State) : (s.heardFrame).retryCnt = s.retryCnt := rfl
@[simp] theorem heardFrame_txidleCnt (s : State) : (s.heardFrame).txidleCnt = s.txidleCnt := rfl
@[simp] theorem heardFrame_failCnt (s : State) : (s.heardFrame).failCnt = s.failCnt := rfl
@[simp] theorem heardFrame_asm (s : State) : (s.heardFrame).asm = s.asm := rfl
@[simp] theorem heardFrame_asmCnt (s : State) : (s.heardFrame).asmCnt = s.asmCnt := rfl
@[simp] theorem heardFrame_v (s : State) : (s.heardFrame).v = s.v := rfl
@[simp] theorem heardFrame_r (s : State) : (s.heardFrame).r = s.r := rfl
@[simp] theorem heardFrame_stg (s : State) : (s.heardFrame).stg = s.stg := rfl
@[simp] theorem heardFrame_txq (s : State) : (s.heardFrame).txq = s.txq := rfl
@[simp] theorem heardFrame_rptq (s : State) : (s.heardFrame).rptq = s.rptq := rfl
@[simp] theorem heardFrame_rptOvf (s : State) : (s.heardFrame).rptOvf = s.rptOvf := rfl
@[simp] theorem heardFrame_cfg (s : State) : (s.heardFrame).cfg = s.cfg := rfl
@[simp] theorem heardFrame_sess (s : State) : (s.heardFrame).sess = s.sess := rfl
@[simp] theorem heardFrame_heard (s : State) : (s.heardFrame).heard = true := rfl
@[simp] theorem heardFrame_idleCnt (s : State) : (s.heardFrame).idleCnt = 0 := rfl

/-! ### `enqueueTx` -/
@[simp] theorem enqueueTx_params (s : State) (f : List Byte) : (s.enqueueTx f).1.params = s.params := by unfold State.enqueueTx; split <;> simp
@[simp] theorem enqueueTx_input (s : State) (f : List Byte) : (s.enqueueTx f).1.input = s.input := by unfold State.enqueueTx; split <;> simp
@[simp] theorem enqueueTx_out (s : State) (f : List Byte) : (s.enqueueTx f).1.out = s.out := by unfold State.enqueueTx; split <;> simp
@[simp] theorem enqueueTx_lstate (s : State) (f : List Byte) : (s.enqueueTx f).1.lstate = s.lstate := by unfold State.enqueueTx; split <;> simp
@[simp] theorem enqueueTx_fcause (s : State) (f : List Byte) : (s.enqueueTx f).1.fcause = s.fcause := by unfold State.enqueueTx; split <;> simp
@[simp] theorem enqueueTx_priorFail (s : State) (f : List Byte) : (s.enqueueTx f).1.priorFail = s.priorFail := by unfold State.enqueueTx; split <;> simp
@[simp] theorem enqueueTx_heard (s : State) (f : List Byte) : (s.enqueueTx f).1.heard = s.heard := by unfold State.enqueueTx; split <;> simp
@[simp] theorem enqueueTx_puCnt (s : State) (f : List Byte) : (s.enqueueTx f).1.puCnt = s.puCnt := by unfold State.enqueueTx; split <;> simp
@[simp] theorem enqueueTx_respCnt (s : State) (f : List Byte) : (s.enqueueTx f).1.respCnt = s.respCnt := by unfold State.enqueueTx; split <;> simp
@[simp] theorem enqueueTx_retryCnt (s : State) (f : List Byte) : (s.enqueueTx f).1.retryCnt = s.retryCnt := by unfold State.enqueueTx; split <;> simp
@[simp] theorem enqueueTx_idleCnt (s : State) (f : List Byte) : (s.enqueueTx f).1.idleCnt = s.idleCnt := by unfold State.enqueueTx; split <;> simp
@[simp] theorem enqueueTx_asm (s : State) (f : List Byte) : (s.enqueueTx f).1.asm = s.asm := by unfold State.enqueueTx; split <;> simp
@[simp] theorem enqueueTx_asmCnt (s : State) (f : List Byte) : (s.enqueueTx f).1.asmCnt = s.asmCnt := by unfold State.enqueueTx; split <;> simp
@[simp] theorem enqueueTx_v (s : State) (f : List Byte) : (s.enqueueTx f).1.v = s.v := by unfold State.enqueueTx; split <;> simp
@[simp] theorem enqueueTx_r (s : State) (f : List Byte) : (s.enqueueTx f).1.r = s.r := by unfold State.enqueueTx; split <;> simp
@[simp] theorem enqueueTx_stg (s : State) (f : List Byte) : (s.enqueueTx f).1.stg = s.stg := by unfold State.enqueueTx; split <;> simp
@[simp] theorem enqueueTx_cfg (s : State) (f : List Byte) : (s.enqueueTx f).1.cfg = s.cfg := by unfold State.enqueueTx; split <;> simp
@[simp] theorem enqueueTx_sess (s : State) (f : List Byte) : (s.enqueueTx f).1.sess = s.sess := by unfold State.enqueueTx; split <;> simp

/-! ### `enqueueRecall` -/
@[simp] theorem enqueueRecall_params (s : State) : (s.enqueueRecall).params = s.params := by simp [State.enqueueRecall]
@[simp] theorem enqueueRecall_input (s : State) : (s.enqueueRecall).input = s.input := by simp [State.enqueueRecall]
@[simp] theorem enqueueRecall_out (s : State) : (s.enqueueRecall).out = s.out := by simp [State.enqueueRecall]
@[simp] theorem enqueueRecall_lstate (s : State) : (s.enqueueRecall).lstate = s.lstate := by simp [State.enqueueRecall]
@[simp] theorem enqueueRecall_fcause (s : State) : (s.enqueueRecall).fcause = s.fcause := by simp [State.enqueueRecall]
@[simp] theorem enqueueRecall_priorFail (s : State) : (s.enqueueRecall).priorFail = s.priorFail := by simp [State.enqueueRecall]
@[simp] theorem enqueueRecall_heard (s : State) : (s.enqueueRecall).heard = s.heard := by simp [State.enqueueRecall]
@[simp] theorem enqueueRecall_puCnt (s : State) : (s.enqueueRecall).puCnt = s.puCnt := by simp [State.enqueueRecall]
@[simp] theorem enqueueRecall_respCnt (s : State) : (s.enqueueRecall).respCnt = s.respCnt := by simp [State.enqueueRecall]
@[simp] theorem enqueueRecall_retryCnt (s : State) : (s.enqueueRecall).retryCnt = s.retryCnt := by simp [State.enqueueRecall]
@[simp] theorem enqueueRecall_idleCnt (s : State) : (s.enqueueRecall).idleCnt = s.idleCnt := by simp [State.enqueueRecall]
@[simp] theorem enqueueRecall_asm (s : State) : (s.enqueueRecall).asm = s.asm := by simp [State.enqueueRecall]
@[simp] theorem enqueueRecall_asmCnt (s : State) : (s.enqueueRecall).asmCnt = s.asmCnt := by simp [State.enqueueRecall]
@[simp] theorem enqueueRecall_v (s : State) : (s.enqueueRecall).v = s.v := by simp [State.enqueueRecall]
@[simp] theorem enqueueRecall_r (s : State) : (s.enqueueRecall).r = s.r := by simp [State.enqueueRecall]
@[simp] theorem enqueueRecall_stg (s : State) : (s.enqueueRecall).stg = s.stg := by simp [State.enqueueRecall]
@[simp] theorem enqueueRecall_cfg (s : State) : (s.enqueueRecall).cfg = s.cfg := by simp [State.enqueueRecall]
@[simp] theorem enqueueRecall_sess (s : State) : (s.enqueueRecall).sess = s.sess := by simp [State.enqueueRecall]

/-! ### `emitUpdate` -/
@[simp] theorem emitUpdate_params (s : State) (p : Nat × Bool) : (s.emitUpdate p).params = s.params := by unfold State.emitUpdate; simp only []; split <;> simp
@[simp] theorem emitUpdate_input (s : State) (p : Nat × Bool) : (s.emitUpdate p).input = s.input := by unfold State.emitUpdate; simp only []; split <;> simp
@[simp] theorem emitUpdate_out (s : State) (p : Nat × Bool) : (s.emitUpdate p).out = s.out := by unfold State.emitUpdate; simp only []; split <;> simp
@[simp] theorem emitUpdate_lstate (s : State) (p : Nat × Bool) : (s.emitUpdate p).lstate = s.lstate := by unfold State.emitUpdate; simp only []; split <;> simp
@[simp] theorem emitUpdate_fcause (s : State) (p : Nat × Bool) : (s.emitUpdate p).fcause = s.fcause := by unfold State.emitUpdate; simp only []; split <;> simp
@[simp] theorem emitUpdate_priorFail (s : State) (p : Nat × Bool) : (s.emitUpdate p).priorFail = s.priorFail := by unfold State.emitUpdate; simp only []; split <;> simp
@[simp] theorem emitUpdate_heard (s : State) (p : Nat × Bool) : (s.emitUpdate p).heard = s.heard := by unfold State.emitUpdate; simp only []; split <;> simp
@[simp] theorem emitUpdate_puCnt (s : State) (p : Nat × Bool) : (s.emitUpdate p).puCnt = s.puCnt := by unfold State.emitUpdate; simp only []; split <;> simp
@[simp] theorem emitUpdate_respCnt (s : State) (p : Nat × Bool) : (s.emitUpdate p).respCnt = s.respCnt := by unfold State.emitUpdate; simp only []; split <;> simp
@[simp] theorem emitUpdate_retryCnt (s : State) (p : Nat × Bool) : (s.emitUpdate p).retryCnt = s.retryCnt := by unfold State.emitUpdate; simp only []; split <;> simp
@[simp] theorem emitUpdate_idleCnt (s : State) (p : Nat × Bool) : (s.emitUpdate p).idleCnt = s.idleCnt := by unfold State.emitUpdate; simp only []; split <;> simp
@[simp] theorem emitUpdate_asm (s : State) (p : Nat × Bool) : (s.emitUpdate p).asm = s.asm := by unfold State.emitUpdate; simp only []; split <;> simp
@[simp] theorem emitUpdate_asmCnt (s : State) (p : Nat × Bool) : (s.emitUpdate p).asmCnt = s.asmCnt := by unfold State.emitUpdate; simp only []; split <;> simp
@[simp] theorem emitUpdate_v (s : State) (p : Nat × Bool) : (s.emitUpdate p).v = s.v := by unfold State.emitUpdate; simp only []; split <;> simp
@[simp] theorem emitUpdate_stg (s : State) (p : Nat × Bool) : (s.emitUpdate p).stg = s.stg := by unfold State.emitUpdate; simp only []; split <;> simp
@[simp] theorem emitUpdate_cfg (s : State) (p : Nat × Bool) : (s.emitUpdate p).cfg = s.cfg := by unfold State.emitUpdate; simp only []; split <;> simp
@[simp] theorem emitUpdate_sess (s : State) (p : Nat × Bool) : (s.emitUpdate p).sess = s.sess := by unfold State.emitUpdate; simp only []; split <;> simp

/-! ### `emitDiff` -/
@[simp] theorem emitDiff_params (s : State) : (s.emitDiff).params = s.params := by unfold State.emitDiff; exact foldl_field State.emitUpdate (·.params) (fun _ _ => by simp) _ s
@[simp] theorem emitDiff_input (s : State) : (s.emitDiff).input = s.input := by unfold State.emitDiff; exact foldl_field State.emitUpdate (·.input) (fun _ _ => by simp) _ s
@[simp] theorem emitDiff_out (s : State) : (s.emitDiff).out = s.out := by unfold State.emitDiff; exact foldl_field State.emitUpdate (·.out) (fun _ _ => by simp) _ s
@[simp] theorem emitDiff_lstate (s : State) : (s.emitDiff).lstate = s.lstate := by unfold State.emitDiff; exact foldl_field State.emitUpdate (·.lstate) (fun _ _ => by simp) _ s
@[simp] theorem emitDiff_fcause (s : State) : (s.emitDiff).fcause = s.fcause := by unfold State.emitDiff; exact foldl_field State.emitUpdate (·.fcause) (fun _ _ => by simp) _ s
@[simp] theorem emitDiff_priorFail (s : State) : (s.emitDiff).priorFail = s.priorFail := by unfold State.emitDiff; exact foldl_field State.emitUpdate (·.priorFail) (fun _ _ => by simp) _ s
@[simp] theorem emitDiff_heard (s : State) : (s.emitDiff).heard = s.heard := by unfold State.emitDiff; exact foldl_field State.emitUpdate (·.heard) (fun _ _ => by simp) _ s
@[simp] theorem emitDiff_puCnt (s : State) : (s.emitDiff).puCnt = s.puCnt := by unfold State.emitDiff; exact foldl_field State.emitUpdate (·.puCnt) (fun _ _ => by simp) _ s
@[simp] theorem emitDiff_respCnt (s : State) : (s.emitDiff).respCnt = s.respCnt := by unfold State.emitDiff; exact foldl_field State.emitUpdate (·.respCnt) (fun _ _ => by simp) _ s
@[simp] theorem emitDiff_retryCnt (s : State) : (s.emitDiff).retryCnt = s.retryCnt := by unfold State.emitDiff; exact foldl_field State.emitUpdate (·.retryCnt) (fun _ _ => by simp) _ s
@[simp] theorem emitDiff_idleCnt (s : State) : (s.emitDiff).idleCnt = s.idleCnt := by unfold State.emitDiff; exact foldl_field State.emitUpdate (·.idleCnt) (fun _ _ => by simp) _ s
@[simp] theorem emitDiff_asm (s : State) : (s.emitDiff).asm = s.asm := by unfold State.emitDiff; exact foldl_field State.emitUpdate (·.asm) (fun _ _ => by simp) _ s
@[simp] theorem emitDiff_asmCnt (s : State) : (s.emitDiff).asmCnt = s.asmCnt := by unfold State.emitDiff; exact foldl_field State.emitUpdate (·.asmCnt) (fun _ _ => by simp) _ s
@[simp] theorem emitDiff_v (s : State) : (s.emitDiff).v = s.v := by unfold State.emitDiff; exact foldl_field State.emitUpdate (·.v) (fun _ _ => by simp) _ s
@[simp] theorem emitDiff_stg (s : State) : (s.emitDiff).stg = s.stg := by unfold State.emitDiff; exact foldl_field State.emitUpdate (·.stg) (fun _ _ => by simp) _ s
@[simp] theorem emitDiff_cfg (s : State) : (s.emitDiff).cfg = s.cfg := by unfold State.emitDiff; exact foldl_field State.emitUpdate (·.cfg) (fun _ _ => by simp) _ s
@[simp] theorem emitDiff_sess (s : State) : (s.emitDiff).sess = s.sess := by unfold State.emitDiff; exact foldl_field State.emitUpdate (·.sess) (fun _ _ => by simp) _ s

/-! ### `emitIfActive` -/
@[simp] theorem emitIfActive_params (s : State) : (s.emitIfActive).params = s.params := by unfold State.emitIfActive; split <;> simp
@[simp] theorem emitIfActive_input (s : State) : (s.emitIfActive).input = s.input := by unfold State.emitIfActive; split <;> simp
@[simp] theorem emitIfActive_out (s : State) : (s.emitIfActive).out = s.out := by unfold State.emitIfActive; split <;> simp
@[simp] theorem emitIfActive_lstate (s : State) : (s.emitIfActive).lstate = s.lstate := by unfold State.emitIfActive; split <;> simp
@[simp] theorem emitIfActive_fcause (s : State) : (s.emitIfActive).fcause = s.fcause := by unfold State.emitIfActive; split <;> simp
@[simp] theorem emitIfActive_priorFail (s : State) : (s.emitIfActive).priorFail = s.priorFail := by unfold State.emitIfActive; split <;> simp
@[simp] theorem emitIfActive_heard (s : State) : (s.emitIfActive).heard = s.heard := by unfold State.emitIfActive; split <;> simp
@[simp] theorem emitIfActive_puCnt (s : State) : (s.emitIfActive).puCnt = s.puCnt := by unfold State.emitIfActive; split <;> simp
@[simp] theorem emitIfActive_respCnt (s : State) : (s.emitIfActive).respCnt = s.respCnt := by unfold State.emitIfActive; split <;> simp
@[simp] theorem emitIfActive_retryCnt (s : State) : (s.emitIfActive).retryCnt = s.retryCnt := by unfold State.emitIfActive; split <;> simp
@[simp] theorem emitIfActive_idleCnt (s : State) : (s.emitIfActive).idleCnt = s.idleCnt := by unfold State.emitIfActive; split <;> simp
@[simp] theorem emitIfActive_asm (s : State) : (s.emitIfActive).asm = s.asm := by unfold State.emitIfActive; split <;> simp
@[simp] theorem emitIfActive_asmCnt (s : State) : (s.emitIfActive).asmCnt = s.asmCnt := by unfold State.emitIfActive; split <;> simp
@[simp] theorem emitIfActive_v (s : State) : (s.emitIfActive).v = s.v := by unfold State.emitIfActive; split <;> simp
@[simp] theorem emitIfActive_stg (s : State) : (s.emitIfActive).stg = s.stg := by unfold State.emitIfActive; split <;> simp
@[simp] theorem emitIfActive_cfg (s : State) : (s.emitIfActive).cfg = s.cfg := by unfold State.emitIfActive; split <;> simp
@[simp] theorem emitIfActive_sess (s : State) : (s.emitIfActive).sess = s.sess := by unfold State.emitIfActive; split <;> simp

/-! ### `answerRecall` -/
@[simp] theorem answerRecall_params (s : State) : (s.answerRecall).params = s.params := by unfold State.answerRecall; simp only []; split <;> simp
@[simp] theorem answerRecall_input (s : State) : (s.answerRecall).input = s.input := by unfold State.answerRecall; simp only []; split <;> simp
@[simp] theorem answerRecall_out (s : State) : (s.answerRecall).out = s.out := by unfold State.answerRecall; simp only []; split <;> simp
@[simp] theorem answerRecall_lstate (s : State) : (s.answerRecall).lstate = s.lstate := by unfold State.answerRecall; simp only []; split <;> simp
@[simp] theorem answerRecall_fcause (s : State) : (s.answerRecall).fcause = s.fcause := by unfold State.answerRecall; simp only []; split <;> simp
@[simp] theorem answerRecall_priorFail (s : State) : (s.answerRecall).priorFail = s.priorFail := by unfold State.answerRecall; simp only []; split <;> simp
@[simp] theorem answerRecall_heard (s : State) : (s.answerRecall).heard = s.heard := by unfold State.answerRecall; simp only []; split <;> simp
@[simp] theorem answerRecall_puCnt (s : State) : (s.answerRecall).puCnt = s.puCnt := by unfold State.answerRecall; simp only []; split <;> simp
@[simp] theorem answerRecall_respCnt (s : State) : (s.answerRecall).respCnt = s.respCnt := by unfold State.answerRecall; simp only []; split <;> simp
@[simp] theorem answerRecall_retryCnt (s : State) : (s.answerRecall).retryCnt = s.retryCnt := by unfold State.answerRecall; simp only []; split <;> simp
@[simp] theorem answerRecall_idleCnt (s : State) : (s.answerRecall).idleCnt = s.idleCnt := by unfold State.answerRecall; simp only []; split <;> simp
@[simp] theorem answerRecall_asm (s : State) : (s.answerRecall).asm = s.asm := by unfold State.answerRecall; simp only []; split <;> simp
@[simp] theorem answerRecall_asmCnt (s : State) : (s.answerRecall).asmCnt = s.asmCnt := by unfold State.answerRecall; simp only []; split <;> simp
@[simp] theorem answerRecall_v (s : State) : (s.answerRecall).v = s.v := by unfold State.answerRecall; simp only []; split <;> simp
@[simp] theorem answerRecall_stg (s : State) : (s.answerRecall).stg = s.stg := by unfold State.answerRecall; simp only []; split <;> simp
@[simp] theorem answerRecall_cfg (s : State) : (s.answerRecall).cfg = s.cfg := by unfold State.answerRecall; simp only []; split <;> simp
@[simp] theorem answerRecall_sess (s : State) : (s.answerRecall).sess = s.sess := by unfold State.answerRecall; simp only []; split <;> simp

/-! ### `sendRecall` -/
@[simp] theorem sendRecall_params (s : State) : (s.sendRecall).params = s.params := by simp [State.sendRecall]
@[simp] theorem sendRecall_input (s : State) : (s.sendRecall).input = s.input := by simp [State.sendRecall]
@[simp] theorem sendRecall_out (s : State) : (s.sendRecall).out = s.out := by simp [State.sendRecall]
@[simp] theorem sendRecall_fcause (s : State) : (s.sendRecall).fcause = s.fcause := by simp [State.sendRecall]
@[simp] theorem sendRecall_heard (s : State) : (s.sendRecall).heard = s.heard := by simp [State.sendRecall]
@[simp] theorem sendRecall_idleCnt (s : State) : (s.sendRecall).idleCnt = s.idleCnt := by simp [State.sendRecall]
@[simp] theorem sendRecall_asm (s : State) : (s.sendRecall).asm = s.asm := by simp [State.sendRecall]
@[simp] theorem sendRecall_asmCnt (s : State) : (s.sendRecall).asmCnt = s.asmCnt := by simp [State.sendRecall]
@[simp] theorem sendRecall_v (s : State) : (s.sendRecall).v = s.v := by simp [State.sendRecall]
@[simp] theorem sendRecall_r (s : State) : (s.sendRecall).r = s.r := by simp [State.sendRecall]
@[simp] theorem sendRecall_stg (s : State) : (s.sendRecall).stg = s.stg := by simp [State.sendRecall]
@[simp] theorem sendRecall_cfg (s : State) : (s.sendRecall).cfg = s.cfg := by simp [State.sendRecall]
@[simp] theorem sendRecall_sess (s : State) : (s.sendRecall).sess = s.sess := by simp [State.sendRecall]
@[simp] theorem sendRecall_priorFail (s : State) : (s.sendRecall).priorFail = false := by simp [State.sendRecall]
@[simp] theorem sendRecall_retryCnt (s : State) : (s.sendRecall).retryCnt = 0 := by simp [State.sendRecall]
@[simp] theorem sendRecall_respCnt (s : State) : (s.sendRecall).respCnt = 0 := by simp [State.sendRecall]
@[simp] theorem sendRecall_puCnt (s : State) : (s.sendRecall).puCnt = 0 := by simp [State.sendRecall]
@[simp] theorem sendRecall_lstate (s : State) : (s.sendRecall).lstate = .awaitingRecallResponse := by simp [State.sendRecall]

/-! ### `enterFailed` -/
@[simp] theorem enterFailed_params (s : State) (c : FCause) : (s.enterFailed c).params = s.params := by simp [State.enterFailed]
@[simp] theorem enterFailed_input (s : State) (c : FCause) : (s.enterFailed c).input = s.input := by simp [State.enterFailed]
@[simp] theorem enterFailed_out (s : State) (c : FCause) : (s.enterFailed c).out = s.out := by simp [State.enterFailed]
@[simp] theorem enterFailed_heard (s : State) (c : FCause) : (s.enterFailed c).heard = s.heard := by simp [State.enterFailed]
@[simp] theorem enterFailed_retryCnt (s : State) (c : FCause) : (s.enterFailed c).retryCnt = s.retryCnt := by simp [State.enterFailed]
@[simp] theorem enterFailed_idleCnt (s : State) (c : FCause) : (s.enterFailed c).idleCnt = s.idleCnt := by simp [State.enterFailed]
@[simp] theorem enterFailed_txidleCnt (s : State) (c : FCause) : (s.enterFailed c).txidleCnt = s.txidleCnt := by simp [State.enterFailed]
@[simp] theorem enterFailed_failCnt (s : State) (c : FCause) : (s.enterFailed c).failCnt = s.failCnt := by simp [State.enterFailed]
@[simp] theorem enterFailed_v (s : State) (c : FCause) : (s.enterFailed c).v = s.v := by simp [State.enterFailed]
@[simp] theorem enterFailed_r (s : State) (c : FCause) : (s.enterFailed c).r = s.r := by simp [State.enterFailed]
@[simp] theorem enterFailed_stg (s : State) (c : FCause) : (s.enterFailed c).stg = s.stg := by simp [State.enterFailed]
@[simp] theorem enterFailed_cfg (s : State) (c : FCause) : (s.enterFailed c).cfg = s.cfg := by simp [State.enterFailed]
@[simp] theorem enterFailed_sess (s : State) (c : FCause) : (s.enterFailed c).sess = s.sess := by simp [State.enterFailed]
@[simp] theorem enterFailed_lstate (s : State) (c : FCause) : (s.enterFailed c).lstate = .failed := by simp [State.enterFailed]
@[simp] theorem enterFailed_fcause (s : State) (c : FCause) : (s.enterFailed c).fcause = c := by simp [State.enterFailed]
@[simp] theorem enterFailed_priorFail (s : State) (c : FCause) : (s.enterFailed c).priorFail = (s.priorFail || c.setsPriorFail) := by simp [State.enterFailed]
@[simp] theorem enterFailed_asm (s : State) (c : FCause) : (s.enterFailed c).asm = [] := by simp [State.enterFailed]
@[simp] theorem enterFailed_asmCnt (s : State) (c : FCause) : (s.enterFailed c).asmCnt = 0 := by simp [State.enterFailed]
@[simp] theorem enterFailed_txq (s : State) (c : FCause) : (s.enterFailed c).txq = [] := by simp [State.enterFailed]
@[simp] theorem enterFailed_puCnt (s : State) (c : FCause) : (s.enterFailed c).puCnt = 0 := by simp [State.enterFailed]
@[simp] theorem enterFailed_respCnt (s : State) (c : FCause) : (s.enterFailed c).respCnt = 0 := by simp [State.enterFailed]

/-! ### `failUnlessFailed` -/
@[simp] theorem failUnlessFailed_params (s : State) (c : FCause) : (s.failUnlessFailed c).params = s.params := by unfold State.failUnlessFailed; split <;> simp
@[simp] theorem failUnlessFailed_input (s : State) (c : FCause) : (s.failUnlessFailed c).input = s.input := by unfold State.failUnlessFailed; split <;> simp
@[simp] theorem failUnlessFailed_out (s : State) (c : FCause) : (s.failUnlessFailed c).out = s.out := by unfold State.failUnlessFailed; split <;> simp
@[simp] theorem failUnlessFailed_heard (s : State) (c : FCause) : (s.failUnlessFailed c).heard = s.heard := by unfold State.failUnlessFailed; split <;> simp
@[simp] theorem failUnlessFailed_retryCnt (s : State) (c : FCause) : (s.failUnlessFailed c).retryCnt = s.retryCnt := by unfold State.failUnlessFailed; split <;> simp
@[simp] theorem failUnlessFailed_idleCnt (s : State) (c : FCause) : (s.failUnlessFailed c).idleCnt = s.idleCnt := by unfold State.failUnlessFailed; split <;> simp
@[simp] theorem failUnlessFailed_txidleCnt (s : State) (c : FCause) : (s.failUnlessFailed c).txidleCnt = s.txidleCnt := by unfold State.failUnlessFailed; split <;> simp
@[simp] theorem failUnlessFailed_failCnt (s : State) (c : FCause) : (s.failUnlessFailed c).failCnt = s.failCnt := by unfold State.failUnlessFailed; split <;> simp
@[simp] theorem failUnlessFailed_v (s : State) (c : FCause) : (s.failUnlessFailed c).v = s.v := by unfold State.failUnlessFailed; split <;> simp
@[simp] theorem failUnlessFailed_r (s : State) (c : FCause) : (s.failUnlessFailed c).r = s.r := by unfold State.failUnlessFailed; split <;> simp
@[simp] theorem failUnlessFailed_stg (s : State) (c : FCause) : (s.failUnlessFailed c).stg = s.stg := by unfold State.failUnlessFailed; split <;> simp
@[simp] theorem failUnlessFailed_cfg (s : State) (c : FCause) : (s.failUnlessFailed c).cfg = s.cfg := by unfold State.failUnlessFailed; split <;> simp
@[simp] theorem failUnlessFailed_sess (s : State) (c : FCause) : (s.failUnlessFailed c).sess = s.sess := by unfold State.failUnlessFailed; split <;> simp

/-! ### `reportChange` -/
@[simp] theorem reportChange_params (s : State) (p : Nat × Bool) : (s.reportChange p).params = s.params := by simp [State.reportChange]
@[simp] theorem reportChange_input (s : State) (p : Nat × Bool) : (s.reportChange p).input = s.input := by simp [State.reportChange]
@[simp] theorem reportChange_out (s : State) (p : Nat × Bool) : (s.reportChange p).out = s.out := by simp [State.reportChange]
@[simp] theorem reportChange_lstate (s : State) (p : Nat × Bool) : (s.reportChange p).lstate = s.lstate := by simp [State.reportChange]
@[simp] theorem reportChange_fcause (s : State) (p : Nat × Bool) : (s.reportChange p).fcause = s.fcause := by simp [State.reportChange]
@[simp] theorem reportChange_priorFail (s : State) (p : Nat × Bool) : (s.reportChange p).priorFail = s.priorFail := by simp [State.reportChange]
@[simp] theorem reportChange_heard (s : State) (p : Nat × Bool) : (s.reportChange p).heard = s.heard := by simp [State.reportChange]
@[simp] theorem reportChange_puCnt (s : State) (p : Nat × Bool) : (s.reportChange p).puCnt = s.puCnt := by simp [State.reportChange]
@[simp] theorem reportChange_respCnt (s : State) (p : Nat × Bool) : (s.reportChange p).respCnt = s.respCnt := by simp [State.reportChange]
@[simp] theorem reportChange_retryCnt (s : State) (p : Nat × Bool) : (s.reportChange p).retryCnt = s.retryCnt := by simp [State.reportChange]
@[simp] theorem reportChange_idleCnt (s : State) (p : Nat × Bool) : (s.reportChange p).idleCnt = s.idleCnt := by simp [State.reportChange]
@[simp] theorem reportChange_txidleCnt (s : State) (p : Nat × Bool) : (s.reportChange p).txidleCnt = s.txidleCnt := by simp [State.reportChange]
@[simp] theorem reportChange_failCnt (s : State) (p : Nat × Bool) : (s.reportChange p).failCnt = s.failCnt := by simp [State.reportChange]
@[simp] theorem reportChange_asm (s : State) (p : Nat × Bool) : (s.reportChange p).asm = s.asm := by simp [State.reportChange]
@[simp] theorem reportChange_asmCnt (s : State) (p : Nat × Bool) : (s.reportChange p).asmCnt = s.asmCnt := by simp [State.reportChange]
@[simp] theorem reportChange_v (s : State) (p : Nat × Bool) : (s.reportChange p).v = s.v := by simp [State.reportChange]
@[simp] theorem reportChange_r (s : State) (p : Nat × Bool) : (s.reportChange p).r = s.r := by simp [State.reportChange]
@[simp] theorem reportChange_stg (s : State) (p : Nat × Bool) : (s.reportChange p).stg = s.stg := by simp [State.reportChange]
@[simp] theorem reportChange_txq (s : State) (p : Nat × Bool) : (s.reportChange p).txq = s.txq := by simp [State.reportChange]
@[simp] theorem reportChange_cfg (s : State) (p : Nat × Bool) : (s.reportChange p).cfg = s.cfg := by simp [State.reportChange]
@[simp] theorem reportChange_sess (s : State) (p : Nat × Bool) : (s.reportChange p).sess = s.sess := by simp [State.reportChange]

/-! ### `reportChanges` -/
@[simp] theorem reportChanges_params (s : State) (ds : List (Nat × Bool)) : (s.reportChanges ds).params = s.params := by unfold State.reportChanges; exact foldl_field State.reportChange (·.params) (fun _ _ => by simp) ds s
@[simp] theorem reportChanges_input (s : State) (ds : List (Nat × Bool)) : (s.reportChanges ds).input = s.input := by unfold State.reportChanges; exact foldl_field State.reportChange (·.input) (fun _ _ => by simp) ds s
@[simp] theorem reportChanges_out (s : State) (ds : List (Nat × Bool)) : (s.reportChanges ds).out = s.out := by unfold State.reportChanges; exact foldl_field State.reportChange (·.out) (fun _ _ => by simp) ds s
@[simp] theorem reportChanges_lstate (s : State) (ds : List (Nat × Bool)) : (s.reportChanges ds).lstate = s.lstate := by unfold State.reportChanges; exact foldl_field State.reportChange (·.lstate) (fun _ _ => by simp) ds s
@[simp] theorem reportChanges_fcause (s : State) (ds : List (Nat × Bool)) : (s.reportChanges ds).fcause = s.fcause := by unfold State.reportChanges; exact foldl_field State.reportChange (·.fcause) (fun _ _ => by simp) ds s
@[simp] theorem reportChanges_priorFail (s : State) (ds : List (Nat × Bool)) : (s.reportChanges ds).priorFail = s.priorFail := by unfold State.reportChanges; exact foldl_field State.reportChange (·.priorFail) (fun _ _ => by simp) ds s
@[simp] theorem reportChanges_heard (s : State) (ds : List (Nat × Bool)) : (s.reportChanges ds).heard = s.heard := by unfold State.reportChanges; exact foldl_field State.reportChange (·.heard) (fun _ _ => by simp) ds s
@[simp] theorem reportChanges_puCnt (s : State) (ds : List (Nat × Bool)) : (s.reportChanges ds).puCnt = s.puCnt := by unfold State.reportChanges; exact foldl_field State.reportChange (·.puCnt) (fun _ _ => by simp) ds s
@[simp] theorem reportChanges_respCnt (s : State) (ds : List (Nat × Bool)) : (s.reportChanges ds).respCnt = s.respCnt := by unfold State.reportChanges; exact foldl_field State.reportChange (·.respCnt) (fun _ _ => by simp) ds s
@[simp] theorem reportChanges_retryCnt (s : State) (ds : List (Nat × Bool)) : (s.reportChanges ds).retryCnt = s.retryCnt := by unfold State.reportChanges; exact foldl_field State.reportChange (·.retryCnt) (fun _ _ => by simp) ds s
@[simp] theorem reportChanges_idleCnt (s : State) (ds : List (Nat × Bool)) : (s.reportChanges ds).idleCnt = s.idleCnt := by unfold State.reportChanges; exact foldl_field State.reportChange (·.idleCnt) (fun _ _ => by simp) ds s
@[simp] theorem reportChanges_txidleCnt (s : State) (ds : List (Nat × Bool)) : (s.reportChanges ds).txidleCnt = s.txidleCnt := by unfold State.reportChanges; exact foldl_field State.reportChange (·.txidleCnt) (fun _ _ => by simp) ds s
@[simp] theorem reportChanges_failCnt (s : State) (ds : List (Nat × Bool)) : (s.reportChanges ds).failCnt = s.failCnt := by unfold State.reportChanges; exact foldl_field State.reportChange (·.failCnt) (fun _ _ => by simp) ds s
@[simp] theorem reportChanges_asm (s : State) (ds : List (Nat × Bool)) : (s.reportChanges ds).asm = s.asm := by unfold State.reportChanges; exact foldl_field State.reportChange (·.asm) (fun _ _ => by simp) ds s
@[simp] theorem reportChanges_asmCnt (s : State) (ds : List (Nat × Bool)) : (s.reportChanges ds).asmCnt = s.asmCnt := by unfold State.reportChanges; exact foldl_field State.reportChange (·.asmCnt) (fun _ _ => by simp) ds s
@[simp] theorem reportChanges_v (s : State) (ds : List (Nat × Bool)) : (s.reportChanges ds).v = s.v := by unfold State.reportChanges; exact foldl_field State.reportChange (·.v) (fun _ _ => by simp) ds s
@[simp] theorem reportChanges_r (s : State) (ds : List (Nat × Bool)) : (s.reportChanges ds).r = s.r := by unfold State.reportChanges; exact foldl_field State.reportChange (·.r) (fun _ _ => by simp) ds s
@[simp] theorem reportChanges_stg (s : State) (ds : List (Nat × Bool)) : (s.reportChanges ds).stg = s.stg := by unfold State.reportChanges; exact foldl_field State.reportChange (·.stg) (fun _ _ => by simp) ds s
@[simp] theorem reportChanges_txq (s : State) (ds : List (Nat × Bool)) : (s.reportChanges ds).txq = s.txq := by unfold State.reportChanges; exact foldl_field State.reportChange (·.txq) (fun _ _ => by simp) ds s
@[simp] theorem reportChanges_cfg (s : State) (ds : List (Nat × Bool)) : (s.reportChanges ds).cfg = s.cfg := by unfold State.reportChanges; exact foldl_field State.reportChange (·.cfg) (fun _ _ => by simp) ds s
@[simp] theorem reportChanges_sess (s : State) (ds : List (Nat × Bool)) : (s.reportChanges ds).sess = s.sess := by unfold State.reportChanges; exact foldl_field State.reportChange (·.sess) (fun _ _ => by simp) ds s

/-! ### `peerReplace` -/
@[simp] theorem peerReplace_params (s : State) (b : VecReg) : (s.peerReplace b).params = s.params := by simp [State.peerReplace]
@[simp] theorem peerReplace_input (s : State) (b : VecReg) : (s.peerReplace b).input = s.input := by simp [State.peerReplace]
@[simp] theorem peerReplace_out (s : State) (b : VecReg) : (s.peerReplace b).out = s.out := by simp [State.peerReplace]
@[simp] theorem peerReplace_lstate (s : State) (b : VecReg) : (s.peerReplace b).lstate = s.lstate := by simp [State.peerReplace]
@[simp] theorem peerReplace_fcause (s : State) (b : VecReg) : (s.peerReplace b).fcause = s.fcause := by simp [State.peerReplace]
@[simp] theorem peerReplace_priorFail (s : State) (b : VecReg) : (s.peerReplace b).priorFail = s.priorFail := by simp [State.peerReplace]
@[simp] theorem peerReplace_heard (s : State) (b : VecReg) : (s.peerReplace b).heard = s.heard := by simp [State.peerReplace]
@[simp] theorem peerReplace_puCnt (s : State) (b : VecReg) : (s.peerReplace b).puCnt = s.puCnt := by simp [State.peerReplace]
@[simp] theorem peerReplace_respCnt (s : State) (b : VecReg) : (s.peerReplace b).respCnt = s.respCnt := by simp [State.peerReplace]
@[simp] theorem peerReplace_retryCnt (s : State) (b : VecReg) : (s.peerReplace b).retryCnt = s.retryCnt := by simp [State.peerReplace]
@[simp] theorem peerReplace_idleCnt (s : State) (b : VecReg) : (s.peerReplace b).idleCnt = s.idleCnt := by simp [State.peerReplace]
@[simp] theorem peerReplace_txidleCnt (s : State) (b : VecReg) : (s.peerReplace b).txidleCnt = s.txidleCnt := by simp [State.peerReplace]
@[simp] theorem peerReplace_failCnt (s : State) (b : VecReg) : (s.peerReplace b).failCnt = s.failCnt := by simp [State.peerReplace]
@[simp] theorem peerReplace_asm (s : State) (b : VecReg) : (s.peerReplace b).asm = s.asm := by simp [State.peerReplace]
@[simp] theorem peerReplace_asmCnt (s : State) (b : VecReg) : (s.peerReplace b).asmCnt = s.asmCnt := by simp [State.peerReplace]
@[simp] theorem peerReplace_stg (s : State) (b : VecReg) : (s.peerReplace b).stg = s.stg := by simp [State.peerReplace]
@[simp] theorem peerReplace_txq (s : State) (b : VecReg) : (s.peerReplace b).txq = s.txq := by simp [State.peerReplace]
@[simp] theorem peerReplace_cfg (s : State) (b : VecReg) : (s.peerReplace b).cfg = s.cfg := by simp [State.peerReplace]
@[simp] theorem peerReplace_sess (s : State) (b : VecReg) : (s.peerReplace b).sess = s.sess := by simp [State.peerReplace]
@[simp] theorem peerReplace_v (s : State) (b : VecReg) : (s.peerReplace b).v = replaceVec s.v b s.len := by simp [State.peerReplace]
@[simp] theorem peerReplace_r (s : State) (b : VecReg) : (s.peerReplace b).r = replaceVec s.r b s.len := by simp [State.peerReplace]

/-! ### `recallResponse` -/
@[simp] theorem recallResponse_params (s : State) (b : VecReg) : (s.recallResponse b).params = s.params := by simp [State.recallResponse]
@[simp] theorem recallResponse_input (s : State) (b : VecReg) : (s.recallResponse b).input = s.input := by simp [State.recallResponse]
@[simp] theorem recallResponse_out (s : State) (b : VecReg) : (s.recallResponse b).out = s.out := by simp [State.recallResponse]
@[simp] theorem recallResponse_fcause (s : State) (b : VecReg) : (s.recallResponse b).fcause = s.fcause := by simp [State.recallResponse]
@[simp] theorem recallResponse_priorFail (s : State) (b : VecReg) : (s.recallResponse b).priorFail = s.priorFail := by simp [State.recallResponse]
@[simp] theorem recallResponse_heard (s : State) (b : VecReg) : (s.recallResponse b).heard = s.heard := by simp [State.recallResponse]
@[simp] theorem recallResponse_puCnt (s : State) (b : VecReg) : (s.recallResponse b).puCnt = s.puCnt := by simp [State.recallResponse]
@[simp] theorem recallResponse_idleCnt (s : State) (b : VecReg) : (s.recallResponse b).idleCnt = s.idleCnt := by simp [State.recallResponse]
@[simp] theorem recallResponse_txidleCnt (s : State) (b : VecReg) : (s.recallResponse b).txidleCnt = s.txidleCnt := by simp [State.recallResponse]
@[simp] theorem recallResponse_failCnt (s : State) (b : VecReg) : (s.recallResponse b).failCnt = s.failCnt := by simp [State.recallResponse]
@[simp] theorem recallResponse_asm (s : State) (b : VecReg) : (s.recallResponse b).asm = s.asm := by simp [State.recallResponse]
@[simp] theorem recallResponse_asmCnt (s : State) (b : VecReg) : (s.recallResponse b).asmCnt = s.asmCnt := by simp [State.recallResponse]
@[simp] theorem recallResponse_stg (s : State) (b : VecReg) : (s.recallResponse b).stg = s.stg := by simp [State.recallResponse]
@[simp] theorem recallResponse_txq (s : State) (b : VecReg) : (s.recallResponse b).txq = s.txq := by simp [State.recallResponse]
@[simp] theorem recallResponse_cfg (s : State) (b : VecReg) : (s.recallResponse b).cfg = s.cfg := by simp [State.recallResponse]
@[simp] theorem recallResponse_sess (s : State) (b : VecReg) : (s.recallResponse b).sess = s.sess := by simp [State.recallResponse]
@[simp] theorem recallResponse_v (s : State) (b : VecReg) : (s.recallResponse b).v = replaceVec s.v b s.len := by simp [State.recallResponse]
@[simp] theorem recallResponse_r (s : State) (b : VecReg) : (s.recallResponse b).r = replaceVec s.r b s.len := by simp [State.recallResponse]
@[simp] theorem recallResponse_lstate (s : State) (b : VecReg) : (s.recallResponse b).lstate = .active := by simp [State.recallResponse]
@[simp] theorem recallResponse_retryCnt (s : State) (b : VecReg) : (s.recallResponse b).retryCnt = 0 := by simp [State.recallResponse]
@[simp] theorem recallResponse_respCnt (s : State) (b : VecReg) : (s.recallResponse b).respCnt = 0 := by simp [State.recallResponse]

/-! ### `peerApply` -/
@[simp] theorem peerApply_params (s : State) (i : Nat) (b : Bool) : (s.peerApply i b).params = s.params := by unfold State.peerApply; dsimp only; (repeat' split) <;> simp
@[simp] theorem peerApply_input (s : State) (i : Nat) (b : Bool) : (s.peerApply i b).input = s.input := by unfold State.peerApply; dsimp only; (repeat' split) <;> simp
@[simp] theorem peerApply_out (s : State) (i : Nat) (b : Bool) : (s.peerApply i b).out = s.out := by unfold State.peerApply; dsimp only; (repeat' split) <;> simp
@[simp] theorem peerApply_lstate (s : State) (i : Nat) (b : Bool) : (s.peerApply i b).lstate = s.lstate := by unfold State.peerApply; dsimp only; (repeat' split) <;> simp
@[simp] theorem peerApply_fcause (s : State) (i : Nat) (b : Bool) : (s.peerApply i b).fcause = s.fcause := by unfold State.peerApply; dsimp only; (repeat' split) <;> simp
@[simp] theorem peerApply_priorFail (s : State) (i : Nat) (b : Bool) : (s.peerApply i b).priorFail = s.priorFail := by unfold State.peerApply; dsimp only; (repeat' split) <;> simp
@[simp] theorem peerApply_heard (s : State) (i : Nat) (b : Bool) : (s.peerApply i b).heard = s.heard := by unfold State.peerApply; dsimp only; (repeat' split) <;> simp
@[simp] theorem peerApply_puCnt (s : State) (i : Nat) (b : Bool) : (s.peerApply i b).puCnt = s.puCnt := by unfold State.peerApply; dsimp only; (repeat' split) <;> simp
@[simp] theorem peerApply_respCnt (s : State) (i : Nat) (b : Bool) : (s.peerApply i b).respCnt = s.respCnt := by unfold State.peerApply; dsimp only; (repeat' split) <;> simp
@[simp] theorem peerApply_retryCnt (s : State) (i : Nat) (b : Bool) : (s.peerApply i b).retryCnt = s.retryCnt := by unfold State.peerApply; dsimp only; (repeat' split) <;> simp
@[simp] theorem peerApply_idleCnt (s : State) (i : Nat) (b : Bool) : (s.peerApply i b).idleCnt = s.idleCnt := by unfold State.peerApply; dsimp only; (repeat' split) <;> simp
@[simp] theorem peerApply_txidleCnt (s : State) (i : Nat) (b : Bool) : (s.peerApply i b).txidleCnt = s.txidleCnt := by unfold State.peerApply; dsimp only; (repeat' split) <;> simp
@[simp] theorem peerApply_failCnt (s : State) (i : Nat) (b : Bool) : (s.peerApply i b).failCnt = s.failCnt := by unfold State.peerApply; dsimp only; (repeat' split) <;> simp
@[simp] theorem peerApply_asm (s : State) (i : Nat) (b : Bool) : (s.peerApply i b).asm = s.asm := by unfold State.peerApply; dsimp only; (repeat' split) <;> simp
@[simp] theorem peerApply_asmCnt (s : State) (i : Nat) (b : Bool) : (s.peerApply i b).asmCnt = s.asmCnt := by unfold State.peerApply; dsimp only; (repeat' split) <;> simp
@[simp] theorem peerApply_stg (s : State) (i : Nat) (b : Bool) : (s.peerApply i b).stg = s.stg := by unfold State.peerApply; dsimp only; (repeat' split) <;> simp
@[simp] theorem peerApply_txq (s : State) (i : Nat) (b : Bool) : (s.peerApply i b).txq = s.txq := by unfold State.peerApply; dsimp only; (repeat' split) <;> simp
@[simp] theorem peerApply_cfg (s : State) (i : Nat) (b : Bool) : (s.peerApply i b).cfg = s.cfg := by unfold State.peerApply; dsimp only; (repeat' split) <;> simp
@[simp] theorem peerApply_sess (s : State) (i : Nat) (b : Bool) : (s.peerApply i b).sess = s.sess := by unfold State.peerApply; dsimp only; (repeat' split) <;> simp

/-! ### `unexpectedFrame` -/
@[simp] theorem unexpectedFrame_params (s : State) (t : MsgType) : (s.unexpectedFrame t).params = s.params := by simp [State.unexpectedFrame]
@[simp] theorem unexpectedFrame_input (s : State) (t : MsgType) : (s.unexpectedFrame t).input = s.input := by simp [State.unexpectedFrame]
@[simp] theorem unexpectedFrame_out (s : State) (t : MsgType) : (s.unexpectedFrame t).out = s.out := by simp [State.unexpectedFrame]
@[simp] theorem unexpectedFrame_lstate (s : State) (t : MsgType) : (s.unexpectedFrame t).lstate = s.lstate := by simp [State.unexpectedFrame]
@[simp] theorem unexpectedFrame_fcause (s : State) (t : MsgType) : (s.unexpectedFrame t).fcause = s.fcause := by simp [State.unexpectedFrame]
@[simp] theorem unexpectedFrame_priorFail (s : State) (t : MsgType) : (s.unexpectedFrame t).priorFail = s.priorFail := by simp [State.unexpectedFrame]
@[simp] theorem unexpectedFrame_heard (s : State) (t : MsgType) : (s.unexpectedFrame t).heard = s.heard := by simp [State.unexpectedFrame]
@[simp] theorem unexpectedFrame_puCnt (s : State) (t : MsgType) : (s.unexpectedFrame t).puCnt = s.puCnt := by simp [State.unexpectedFrame]
@[simp] theorem unexpectedFrame_respCnt (s : State) (t : MsgType) : (s.unexpectedFrame t).respCnt = s.respCnt := by simp [State.unexpectedFrame]
@[simp] theorem unexpectedFrame_retryCnt (s : State) (t : MsgType) : (s.unexpectedFrame t).retryCnt = s.retryCnt := by simp [State.unexpectedFrame]
@[simp] theorem unexpectedFrame_idleCnt (s : State) (t : MsgType) : (s.unexpectedFrame t).idleCnt = s.idleCnt := by simp [State.unexpectedFrame]
@[simp] theorem unexpectedFrame_txidleCnt (s : State) (t : MsgType) : (s.unexpectedFrame t).txidleCnt = s.txidleCnt := by simp [State.unexpectedFrame]
@[simp] theorem unexpectedFrame_failCnt (s : State) (t : MsgType) : (s.unexpectedFrame t).failCnt = s.failCnt := by simp [State.unexpectedFrame]
@[simp] theorem unexpectedFrame_asm (s : State) (t : MsgType) : (s.unexpectedFrame t).asm = s.asm := by simp [State.unexpectedFrame]
@[simp] theorem unexpectedFrame_asmCnt (s : State) (t : MsgType) : (s.unexpectedFrame t).asmCnt = s.asmCnt := by simp [State.unexpectedFrame]
@[simp] theorem unexpectedFrame_v (s : State) (t : MsgType) : (s.unexpectedFrame t).v = s.v := by simp [State.unexpectedFrame]
@[simp] theorem unexpectedFrame_r (s : State) (t : MsgType) : (s.unexpectedFrame t).r = s.r := by simp [State.unexpectedFrame]
@[simp] theorem unexpectedFrame_stg (s : State) (t : MsgType) : (s.unexpectedFrame t).stg = s.stg := by simp [State.unexpectedFrame]
@[simp] theorem unexpectedFrame_txq (s : State) (t : MsgType) : (s.unexpectedFrame t).txq = s.txq := by simp [State.unexpectedFrame]
@[simp] theorem unexpectedFrame_cfg (s : State) (t : MsgType) : (s.unexpectedFrame t).cfg = s.cfg := by simp [State.unexpectedFrame]
@[simp] theorem unexpectedFrame_sess (s : State) (t : MsgType) : (s.unexpectedFrame t).sess = s.sess := by simp [State.unexpectedFrame]

/-! ### `illegal` -/
@[simp] theorem illegal_params (s : State) (op : BitVec 4) (x : BitVec 2) : (s.illegal op x).params = s.params := by simp [State.illegal]
@[simp] theorem illegal_input (s : State) (op : BitVec 4) (x : BitVec 2) : (s.illegal op x).input = s.input := by simp [State.illegal]
@[simp] theorem illegal_out (s : State) (op : BitVec 4) (x : BitVec 2) : (s.illegal op x).out = s.out := by simp [State.illegal]
@[simp] theorem illegal_lstate (s : State) (op : BitVec 4) (x : BitVec 2) : (s.illegal op x).lstate = s.lstate := by simp [State.illegal]
@[simp] theorem illegal_fcause (s : State) (op : BitVec 4) (x : BitVec 2) : (s.illegal op x).fcause = s.fcause := by simp [State.illegal]
@[simp] theorem illegal_priorFail (s : State) (op : BitVec 4) (x : BitVec 2) : (s.illegal op x).priorFail = s.priorFail := by simp [State.illegal]
@[simp] theorem illegal_heard (s : State) (op : BitVec 4) (x : BitVec 2) : (s.illegal op x).heard = s.heard := by simp [State.illegal]
@[simp] theorem illegal_puCnt (s : State) (op : BitVec 4) (x : BitVec 2) : (s.illegal op x).puCnt = s.puCnt := by simp [State.illegal]
@[simp] theorem illegal_respCnt (s : State) (op : BitVec 4) (x : BitVec 2) : (s.illegal op x).respCnt = s.respCnt := by simp [State.illegal]
@[simp] theorem illegal_retryCnt (s : State) (op : BitVec 4) (x : BitVec 2) : (s.illegal op x).retryCnt = s.retryCnt := by simp [State.illegal]
@[simp] theorem illegal_idleCnt (s : State) (op : BitVec 4) (x : BitVec 2) : (s.illegal op x).idleCnt = s.idleCnt := by simp [State.illegal]
@[simp] theorem illegal_txidleCnt (s : State) (op : BitVec 4) (x : BitVec 2) : (s.illegal op x).txidleCnt = s.txidleCnt := by simp [State.illegal]
@[simp] theorem illegal_failCnt (s : State) (op : BitVec 4) (x : BitVec 2) : (s.illegal op x).failCnt = s.failCnt := by simp [State.illegal]
@[simp] theorem illegal_asm (s : State) (op : BitVec 4) (x : BitVec 2) : (s.illegal op x).asm = s.asm := by simp [State.illegal]
@[simp] theorem illegal_asmCnt (s : State) (op : BitVec 4) (x : BitVec 2) : (s.illegal op x).asmCnt = s.asmCnt := by simp [State.illegal]
@[simp] theorem illegal_v (s : State) (op : BitVec 4) (x : BitVec 2) : (s.illegal op x).v = s.v := by simp [State.illegal]
@[simp] theorem illegal_r (s : State) (op : BitVec 4) (x : BitVec 2) : (s.illegal op x).r = s.r := by simp [State.illegal]
@[simp] theorem illegal_stg (s : State) (op : BitVec 4) (x : BitVec 2) : (s.illegal op x).stg = s.stg := by simp [State.illegal]
@[simp] theorem illegal_txq (s : State) (op : BitVec 4) (x : BitVec 2) : (s.illegal op x).txq = s.txq := by simp [State.illegal]
@[simp] theorem illegal_cfg (s : State) (op : BitVec 4) (x : BitVec 2) : (s.illegal op x).cfg = s.cfg := by simp [State.illegal]
@[simp] theorem illegal_sess (s : State) (op : BitVec 4) (x : BitVec 2) : (s.illegal op x).sess = s.sess := by simp [State.illegal]

/-! ### `dropPartial` -/
@[simp] theorem dropPartial_params (s : State) : (s.dropPartial).params = s.params := by simp [State.dropPartial]
@[simp] theorem dropPartial_input (s : State) : (s.dropPartial).input = s.input := by simp [State.dropPartial]
@[simp] theorem dropPartial_out (s : State) : (s.dropPartial).out = s.out := by simp [State.dropPartial]
@[simp] theorem dropPartial_lstate (s : State) : (s.dropPartial).lstate = s.lstate := by simp [State.dropPartial]
@[simp] theorem dropPartial_fcause (s : State) : (s.dropPartial).fcause = s.fcause := by simp [State.dropPartial]
@[simp] theorem dropPartial_priorFail (s : State) : (s.dropPartial).priorFail = s.priorFail := by simp [State.dropPartial]
@[simp] theorem dropPartial_heard (s : State) : (s.dropPartial).heard = s.heard := by simp [State.dropPartial]
@[simp] theorem dropPartial_puCnt (s : State) : (s.dropPartial).puCnt = s.puCnt := by simp [State.dropPartial]
@[simp] theorem dropPartial_respCnt (s : State) : (s.dropPartial).respCnt = s.respCnt := by simp [State.dropPartial]
@[simp] theorem dropPartial_retryCnt (s : State) : (s.dropPartial).retryCnt = s.retryCnt := by simp [State.dropPartial]
@[simp] theorem dropPartial_idleCnt (s : State) : (s.dropPartial).idleCnt = s.idleCnt := by simp [State.dropPartial]
@[simp] theorem dropPartial_txidleCnt (s : State) : (s.dropPartial).txidleCnt = s.txidleCnt := by simp [State.dropPartial]
@[simp] theorem dropPartial_v (s : State) : (s.dropPartial).v = s.v := by simp [State.dropPartial]
@[simp] theorem dropPartial_r (s : State) : (s.dropPartial).r = s.r := by simp [State.dropPartial]
@[simp] theorem dropPartial_stg (s : State) : (s.dropPartial).stg = s.stg := by simp [State.dropPartial]
@[simp] theorem dropPartial_txq (s : State) : (s.dropPartial).txq = s.txq := by simp [State.dropPartial]
@[simp] theorem dropPartial_cfg (s : State) : (s.dropPartial).cfg = s.cfg := by simp [State.dropPartial]
@[simp] theorem dropPartial_sess (s : State) : (s.dropPartial).sess = s.sess := by simp [State.dropPartial]
@[simp] theorem dropPartial_asm (s : State) : (s.dropPartial).asm = [] := by simp [State.dropPartial]
@[simp] theorem dropPartial_asmCnt (s : State) : (s.dropPartial).asmCnt = 0 := by simp [State.dropPartial]
@[simp] theorem dropPartial_failCnt (s : State) : (s.dropPartial).failCnt = inc s.failCnt := by simp [State.dropPartial]

/-! ### `linkReset` -/
@[simp] theorem linkReset_params (s : State) : (s.linkReset).params = s.params := by simp [State.linkReset]
@[simp] theorem linkReset_input (s : State) : (s.linkReset).input = s.input := by simp [State.linkReset]
@[simp] theorem linkReset_out (s : State) : (s.linkReset).out = s.out := by simp [State.linkReset]
@[simp] theorem linkReset_priorFail (s : State) : (s.linkReset).priorFail = s.priorFail := by simp [State.linkReset]
@[simp] theorem linkReset_failCnt (s : State) : (s.linkReset).failCnt = s.failCnt := by simp [State.linkReset]
@[simp] theorem linkReset_stg (s : State) : (s.linkReset).stg = s.stg := by simp [State.linkReset]
@[simp] theorem linkReset_cfg (s : State) : (s.linkReset).cfg = s.cfg := by simp [State.linkReset]
@[simp] theorem linkReset_sess (s : State) : (s.linkReset).sess = s.cfg := by simp [State.linkReset]
@[simp] theorem linkReset_r (s : State) : (s.linkReset).r = 0 := by simp [State.linkReset]
@[simp] theorem linkReset_lstate (s : State) : (s.linkReset).lstate = .poweredUp := by simp [State.linkReset]
@[simp] theorem linkReset_fcause (s : State) : (s.linkReset).fcause = .none := by simp [State.linkReset]
@[simp] theorem linkReset_heard (s : State) : (s.linkReset).heard = false := by simp [State.linkReset]
@[simp] theorem linkReset_puCnt (s : State) : (s.linkReset).puCnt = 0 := by simp [State.linkReset]
@[simp] theorem linkReset_respCnt (s : State) : (s.linkReset).respCnt = 0 := by simp [State.linkReset]
@[simp] theorem linkReset_retryCnt (s : State) : (s.linkReset).retryCnt = 0 := by simp [State.linkReset]
@[simp] theorem linkReset_idleCnt (s : State) : (s.linkReset).idleCnt = 0 := by simp [State.linkReset]
@[simp] theorem linkReset_txidleCnt (s : State) : (s.linkReset).txidleCnt = 0 := by simp [State.linkReset]
@[simp] theorem linkReset_asmCnt (s : State) : (s.linkReset).asmCnt = 0 := by simp [State.linkReset]
@[simp] theorem linkReset_asm (s : State) : (s.linkReset).asm = [] := by simp [State.linkReset]
@[simp] theorem linkReset_txq (s : State) : (s.linkReset).txq = [] := by simp [State.linkReset]

end Sys2Proof.Machine
end

