-- ==== Sys2Proof/Laws/Store.lean ====
section
/-! SUPPORT. What the vector store's functions do, point by point (spec/41_vector_store.md R180 to R182). -/

namespace Sys2Proof.Machine

/-- Two vectors that agree on the points 1 to 128 are equal. -/
theorem vec_ext {x y : VecReg} (h : ∀ i, 1 ≤ i → i ≤ 128 → pt x i = pt y i) : x = y := by
  apply BitVec.eq_of_getLsbD_eq
  intro k hk
  simpa [pt] using h (k + 1) (by omega) (by omega)

@[simp] theorem pt_zero (i : Nat) : pt 0#128 i = false := by simp [pt]

/-- There is no point above 128. -/
theorem pt_above (x : VecReg) {i : Nat} (h : 128 < i) : pt x i = false := by
  simp [pt, BitVec.getLsbD_of_ge _ _ (show 128 ≤ i - 1 by omega)]

/-- `setpt` writes its point and keeps every other. -/
theorem pt_setpt (x : VecReg) (i j : Nat) (s : Bool) (hi : 1 ≤ i) (hj : 1 ≤ j) (h128 : i ≤ 128) :
    pt (setpt x i s) j = if j = i then s else pt x j := by
  by_cases hj' : 128 < j
  · rw [pt_above _ hj', pt_above _ hj', if_neg (by omega)]
  have hlt : j - 1 < 128 := by omega
  cases s <;> by_cases hji : j = i
  · subst hji; simp [pt, setpt, hlt]
  · by_cases h : j - 1 < i - 1 <;> simp [pt, setpt, hlt, hji, h]
    omega
  · subst hji; simp [pt, setpt, hlt]
  · by_cases h : j - 1 < i - 1
    · simp [pt, setpt, hlt, hji, h]
    · have h2 : ¬(j - 1 - (i - 1) = 0) := by omega
      simp [pt, setpt, hlt, hji, h, h2]

/-- `pointsTo n` has exactly the points 1 to n. -/
theorem pt_pointsTo (n i : Nat) (hi : 1 ≤ i) (h128 : i ≤ 128) : pt (pointsTo n) i = decide (i ≤ n) := by
  simp only [pt, pointsTo, BitVec.getLsbD_ofNat, Nat.testBit_two_pow_sub_one]
  have : i - 1 < 128 := by omega
  simp only [this, decide_true, Bool.true_and, decide_eq_decide]
  omega

/-- `replace` takes points 1 to n but 16 from B and keeps the rest (R182). -/
theorem pt_replaceVec (x b : VecReg) (n i : Nat) (hi : 1 ≤ i) (h128 : i ≤ 128) :
    pt (replaceVec x b n) i = if i ≤ n ∧ i ≠ healthPoint then pt b i else pt x i := by
  have hm : pt (setpt (pointsTo n) healthPoint false) i = decide (i ≤ n ∧ i ≠ healthPoint) := by
    rw [pt_setpt _ _ _ _ (by decide) hi (by decide), pt_pointsTo _ _ hi h128]
    by_cases h : i = healthPoint <;> simp [h]
  have hlt : i - 1 < 128 := by omega
  have hr : pt (replaceVec x b n) i =
      (pt b i && pt (setpt (pointsTo n) healthPoint false) i ||
        pt x i && !pt (setpt (pointsTo n) healthPoint false) i) := by
    simp [pt, replaceVec, hlt]
  rw [hr, hm]
  by_cases h : i ≤ n ∧ i ≠ healthPoint <;> simp [h]

/-- The pairs of a diff are the points 1 to n whose values differ, each with B's value (R180). -/
theorem mem_diff (a b : VecReg) (n i : Nat) (s : Bool) :
    (i, s) ∈ diff a b n ↔ 1 ≤ i ∧ i ≤ n ∧ pt a i ≠ pt b i ∧ s = pt b i := by
  simp only [diff, List.mem_filterMap, List.mem_range]
  constructor
  · rintro ⟨k, hk, h⟩
    split at h
    · cases h
    · cases h
      exact ⟨by omega, by omega, by assumption, rfl⟩
  · rintro ⟨h1, h2, h3, rfl⟩
    exact ⟨i - 1, by omega, by simp [show i - 1 + 1 = i by omega, h3]⟩

/-- `apply` fails exactly outside 1 to n; at 16 it writes nothing; elsewhere it writes the point (R181). -/
theorem applyPoint_cases (x : VecReg) (i : Nat) (s : Bool) (n : Nat) :
    ((i < 1 ∨ n < i) ∧ applyPoint x i s n = .error .indexOutOfRange) ∨
    (1 ≤ i ∧ i ≤ n ∧ i = healthPoint ∧ applyPoint x i s n = .ok (x, false)) ∨
    (1 ≤ i ∧ i ≤ n ∧ i ≠ healthPoint ∧ applyPoint x i s n = .ok (setpt x i s, pt x i != s)) := by
  unfold applyPoint
  split
  · exact .inl ⟨by assumption, rfl⟩
  · split
    · exact .inr (.inl ⟨by omega, by omega, by assumption, rfl⟩)
    · exact .inr (.inr ⟨by omega, by omega, by assumption, rfl⟩)

end Sys2Proof.Machine
end

