-- ==== Sys2Proof/Laws/Ops.lean ====
section
/-! SUPPORT. For each shared operation, once, everything it can do. Later proofs cite these instead of unfolding the
operation. -/

namespace Sys2Proof.Machine

/-! ## Counters -/

/-- A saturating increment adds one below the top and stays at the top (R5). -/
theorem inc_toNat (c : Counter) : (inc c).toNat = min (c.toNat + 1) (2 ^ 32 - 1) := by
  have := c.isLt
  simp only [inc, sat32, BitVec.toNat_ofNat]
  omega

/-! ## Reports -/

/-- A report is queued where RPTQ has room, and otherwise only sets RPT_OVF (R185). -/
theorem report_cases (s : State) (c : ReportCode) (x : Info) :
    (hasRoom s.rptq.length s.params.rptqDepth = true ∧
      s.report c x = { s with rptq := s.rptq ++ [reportWord c x] }) ∨
    (hasRoom s.rptq.length s.params.rptqDepth = false ∧ s.report c x = { s with rptOvf := true }) := by
  unfold State.report
  split
  · next h => exact .inl ⟨h, rfl⟩
  · next h => exact .inr ⟨by simpa using h, rfl⟩

/-- With room, a report appends its word. -/
theorem report_room {s : State} (h : hasRoom s.rptq.length s.params.rptqDepth = true) (c : ReportCode) (x : Info) :
    s.report c x = { s with rptq := s.rptq ++ [reportWord c x] } := by simp [State.report, h]

/-- Without room, a report is lost and RPT_OVF records it. -/
theorem report_full {s : State} (h : hasRoom s.rptq.length s.params.rptqDepth = false) (c : ReportCode) (x : Info) :
    s.report c x = { s with rptOvf := true } := by simp [State.report, h]

/-- A queue within its depth, with room for one more, is within its depth after one more. -/
theorem hasRoom_bound {n d : Nat} (h : hasRoom n (some d) = true) : n + 1 ≤ d := by
  simpa [hasRoom] using h

/-! ## The transmit queue -/

/-- A frame is queued where TXQ has room; otherwise TXQ_OVERFLOW is reported and counted (R186). -/
theorem enqueueTx_cases (s : State) (f : List Byte) :
    (hasRoom s.txq.length s.params.txqDepth = true ∧
      s.enqueueTx f = ({ s with txq := s.txq ++ [f], txidleCnt := 0 }, true)) ∨
    (hasRoom s.txq.length s.params.txqDepth = false ∧
      s.enqueueTx f = ((s.report .txqOverflow (zext24 (hdrType (f.headD 0)))).countFailure, false)) := by
  unfold State.enqueueTx
  split
  · next h => exact .inl ⟨h, rfl⟩
  · next h => exact .inr ⟨by simpa using h, rfl⟩

/-- With room, a frame enters TXQ and clears TXIDLE_CNT. -/
theorem enqueueTx_room {s : State} (h : hasRoom s.txq.length s.params.txqDepth = true) (f : List Byte) :
    s.enqueueTx f = ({ s with txq := s.txq ++ [f], txidleCnt := 0 }, true) := by simp [State.enqueueTx, h]

/-- One pass of `emit_diff`: the point's Update queued and recorded in R, or dropped with R as it was (R187). -/
theorem emitUpdate_cases (s : State) (p : Nat × Bool) :
    (hasRoom s.txq.length s.params.txqDepth = true ∧
      s.emitUpdate p = { s with
        txq := s.txq ++ [frameBytes .msgUpdate [updByte p.1 p.2]], txidleCnt := 0, r := setpt s.r p.1 p.2 }) ∨
    (hasRoom s.txq.length s.params.txqDepth = false ∧
      s.emitUpdate p = (s.report .txqOverflow (zext24 typeUpdate)).countFailure) := by
  rcases enqueueTx_cases s (frameBytes .msgUpdate [updByte p.1 p.2]) with ⟨h, e⟩ | ⟨h, e⟩
  · exact .inl ⟨h, by simp [State.emitUpdate, e, State.setReported]⟩
  · refine .inr ⟨h, ?_⟩
    rw [frameBytes_headD, hdrType_packHeader] at e
    simp [State.emitUpdate, e, MsgType.code]

/-- What every pass of `emit_diff` keeps, `emit_diff` keeps. -/
theorem emitDiff_induction {P : State → Prop} (s : State) (h0 : P s)
    (hstep : ∀ t i b, P t → (i, b) ∈ diff s.r s.v s.len → P (t.emitUpdate (i, b))) : P s.emitDiff := by
  unfold State.emitDiff
  generalize diff s.r s.v s.len = l at hstep
  induction l generalizing s with
  | nil => exact h0
  | cons p l ih =>
    exact ih (s.emitUpdate p) (hstep s p.1 p.2 h0 (by simp))
      fun t i b ht hm => hstep t i b ht (by simp [hm])

/-- What every report keeps, the reports of a diff keep. -/
theorem reportChanges_induction {P : State → Prop} (s : State) (ds : List (Nat × Bool)) (h0 : P s)
    (hstep : ∀ t c x, P t → P (State.report t c x)) : P (s.reportChanges ds) := by
  unfold State.reportChanges
  induction ds generalizing s with
  | nil => exact h0
  | cons p l ih => exact ih _ (hstep _ _ _ h0)

/-- A Recall answer: the All of V queued and R <- V, or dropped with R as it was (R222). -/
theorem answerRecall_cases (s : State) :
    (hasRoom s.txq.length s.params.txqDepth = true ∧
      s.answerRecall =
        { s with txq := s.txq ++ [frameBytes .msgAll (vbytes s.v s.nb)], txidleCnt := 0, r := s.v }) ∨
    (hasRoom s.txq.length s.params.txqDepth = false ∧
      s.answerRecall = (s.report .txqOverflow (zext24 typeAll)).countFailure) := by
  rcases enqueueTx_cases s (frameBytes .msgAll (vbytes s.v s.nb)) with ⟨h, e⟩ | ⟨h, e⟩
  · exact .inl ⟨h, by simp [State.answerRecall, e]⟩
  · refine .inr ⟨h, ?_⟩
    rw [frameBytes_headD, hdrType_packHeader] at e
    simp [State.answerRecall, e, MsgType.code]

/-! ## Received frames -/

/-- Peer apply: an index report, no effect at point 16, or the point written in V and R and its change reported
(R227). -/
theorem peerApply_cases (s : State) (i : Nat) (b : Bool) :
    ((i < 1 ∨ s.len < i) ∧ s.peerApply i b = s.report .indexOutOfRange (indexInfo i true)) ∨
    (1 ≤ i ∧ i ≤ s.len ∧ i = healthPoint ∧ s.peerApply i b = s) ∨
    (1 ≤ i ∧ i ≤ s.len ∧ i ≠ healthPoint ∧ pt s.v i = b ∧
      s.peerApply i b = { s with v := setpt s.v i b, r := setpt s.r i b }) ∨
    (1 ≤ i ∧ i ≤ s.len ∧ i ≠ healthPoint ∧ pt s.v i ≠ b ∧
      s.peerApply i b =
        State.report { s with v := setpt s.v i b, r := setpt s.r i b } .bitChanged (pointInfo i b)) := by
  rcases applyPoint_cases s.v i b s.len with ⟨h, e⟩ | ⟨h1, h2, h3, e⟩ | ⟨h1, h2, h3, e⟩
  · exact .inl ⟨h, by simp [State.peerApply, e]⟩
  · exact .inr (.inl ⟨h1, h2, h3, by rw [State.peerApply, e]; simp [h3]⟩)
  · by_cases hb : pt s.v i = b
    · exact .inr (.inr (.inl ⟨h1, h2, h3, hb, by simp [State.peerApply, e, h3, hb]⟩))
    · exact .inr (.inr (.inr ⟨h1, h2, h3, hb, by simp [State.peerApply, e, h3, hb]⟩))

/-- A completed frame: its decode error reported and counted, or the frame acted on, ASM empty in either case (R141). -/
theorem completeFrame_cases (s : State) (f : List Byte) :
    (∃ e, codecDecode f s.sess.euc.toNat = .error e ∧
      s.completeFrame f = (s.clearAsm.report e.report (frameInfo f)).countFailure) ∨
    (∃ fr, codecDecode f s.sess.euc.toNat = .ok fr ∧ s.completeFrame f = s.clearAsm.frameReceived fr) := by
  unfold State.completeFrame
  split
  · exact .inl ⟨_, by assumption, rfl⟩
  · exact .inr ⟨_, by assumption, rfl⟩

/-- A frame acted on: one of the cells of R223, after R224. -/
theorem frameReceived_cases (s : State) (fr : Frame) :
    (s.lstate = .failed ∧ s.frameReceived fr = s.heardFrame) ∨
    (s.lstate ≠ .failed ∧ fr.body = .bodyRecall ∧ s.frameReceived fr = s.heardFrame.answerRecall) ∨
    ((s.lstate = .poweredUp ∨ s.lstate = .awaitingRecallResponse) ∧
      (∃ i b, fr.body = .bodyUpdate i b) ∧ s.frameReceived fr = s.heardFrame.unexpectedFrame fr.type) ∨
    (s.lstate = .poweredUp ∧ (∃ b, fr.body = .bodyAll b) ∧
      s.frameReceived fr = s.heardFrame.unexpectedFrame fr.type) ∨
    (s.lstate = .awaitingRecallResponse ∧
      ∃ b, fr.body = .bodyAll b ∧ s.frameReceived fr = s.heardFrame.recallResponse b) ∨
    (s.lstate = .active ∧ ∃ i b, fr.body = .bodyUpdate i b ∧ s.frameReceived fr = s.heardFrame.peerApply i b) ∨
    (s.lstate = .active ∧ ∃ b, fr.body = .bodyAll b ∧ s.frameReceived fr = s.heardFrame.peerReplace b) := by
  obtain ⟨body, type, payload, checksum⟩ := fr
  cases hl : s.lstate <;> cases body <;> simp only [State.frameReceived, State.dispatchFrame, heardFrame_lstate, hl]
  case poweredUp.bodyUpdate i b => exact .inr (.inr (.inl ⟨.inl trivial, ⟨i, b, rfl⟩, trivial⟩))
  case awaitingRecallResponse.bodyUpdate i b => exact .inr (.inr (.inl ⟨.inr trivial, ⟨i, b, rfl⟩, trivial⟩))
  case active.bodyUpdate i b => exact .inr (.inr (.inr (.inr (.inr (.inl ⟨trivial, i, b, rfl, rfl⟩)))))
  all_goals simp

/-- A byte accepted into ASM either waits for more or completes a frame (R141). -/
theorem acceptByte_cases (s : State) (b : Byte) :
    ((s.asm ++ [b]).length = announcedLen (s.asm ++ [b]) ∧ s.acceptByte b = s.completeFrame (s.asm ++ [b])) ∨
    ((s.asm ++ [b]).length ≠ announcedLen (s.asm ++ [b]) ∧
      s.acceptByte b = { s with asm := s.asm ++ [b], asmCnt := 0 }) := by
  unfold State.acceptByte
  split
  · exact .inl ⟨by assumption, by simp [State.completeFrame, State.clearAsm]⟩
  · exact .inr ⟨by assumption, rfl⟩

end Sys2Proof.Machine
end

