-- ==== Sys2Proof/Laws/PerInstr.lean ====
section
/-! SUPPORT. Statements made instruction by instruction. TableRow: the encoding of every instruction lies in its own row of
spec/opcode_table.json, that is, under the row's mask it is the row's match (an event word whole, a frame by its header
byte). -/

namespace Sys2Proof.Laws

/-- The (match, mask) of an instruction's row. -/
def rowOf : Instr → Nat × Nat
  | .rxb _ _ => (0x10000000, 0xFFFFFE00)
  | .rxf _ => (0x20000000, 0xFFFFFFF8)
  | .lidle => (0x30000000, 0xFFFFFFFF)
  | .ldown => (0x40000000, 0xFFFFFFFF)
  | .tick => (0x50000000, 0xFFFFFFFF)
  | .setbit _ _ => (0x60000000, 0xFFFFFE00)
  | .wrstg _ _ => (0x70000000, 0xFFFFF000)
  | .loadall _ => (0x80000000, 0xFFFFFFE0)
  | .cfg _ _ => (0x90000000, 0xF0000000)
  | .reset => (0xA0000000, 0xFFFFFFFF)
  | .close => (0xB0000000, 0xFFFFFFFF)
  | .txtake => (0xC0000000, 0xFFFFFFFF)
  | .rpttake => (0xD0000000, 0xFFFFFFFF)
  | .reservedOp0 _ => (0x00000000, 0xF0000000)
  | .reservedOpE _ => (0xE0000000, 0xF0000000)
  | .reservedOpF _ => (0xF0000000, 0xF0000000)
  | .recallFrame _ => (0x80, 0xFF)
  | .updateFrame _ _ => (0xE1, 0xFF)
  | .allFrame _ _ => (0x20, 0xE0)

/-- A word under a mask is a match. -/
def underMask (x : Encoded) (row : Nat × Nat) : Prop :=
  match x with
  | .event w => w &&& BitVec.ofNat 32 row.2 = BitVec.ofNat 32 row.1
  | .frame bytes => bytes.headD 0 &&& BitVec.ofNat 8 row.2 = BitVec.ofNat 8 row.1

/-- The encoding of the instruction lies in its row. -/
def TableRow.Statement (i : Instr) : Prop := underMask (encode i) (rowOf i)

/-- Two 32-bit words are equal when each of their 32 bits is. -/
theorem word_ext {x y : EventWord} (h : ∀ k, k < 32 → x.getLsbD k = y.getLsbD k) : x = y :=
  BitVec.eq_of_getLsbD_eq h

theorem TableRow.rxb (sop : Bool) (b : Byte) : TableRow.Statement (.rxb sop b) := by
  refine word_ext fun j hj => ?_
  simp only [rxbWord, flagField, opWord, BitVec.getLsbD_and, BitVec.getLsbD_or, BitVec.getLsbD_shiftLeft, BitVec.getLsbD_setWidth]
  interval_cases j <;> simp [BitVec.getLsbD_of_ge, rowOf]
theorem TableRow.rxf (k : TransportFault) : TableRow.Statement (.rxf k) := by cases k <;> rfl
theorem TableRow.lidle : TableRow.Statement (.lidle) := rfl
theorem TableRow.ldown : TableRow.Statement (.ldown) := rfl
theorem TableRow.tick : TableRow.Statement (.tick) := rfl
theorem TableRow.setbit (st : Bool) (i : BitVec 8) : TableRow.Statement (.setbit st i) := by
  refine word_ext fun j hj => ?_
  simp only [setbitWord, flagField, opWord, BitVec.getLsbD_and, BitVec.getLsbD_or, BitVec.getLsbD_shiftLeft, BitVec.getLsbD_setWidth]
  interval_cases j <;> simp [BitVec.getLsbD_of_ge, rowOf]
theorem TableRow.wrstg (k : BitVec 4) (b : Byte) : TableRow.Statement (.wrstg k b) := by
  refine word_ext fun j hj => ?_
  simp only [wrstgWord, opWord, BitVec.getLsbD_and, BitVec.getLsbD_or, BitVec.getLsbD_shiftLeft, BitVec.getLsbD_setWidth]
  interval_cases j <;> simp [BitVec.getLsbD_of_ge, rowOf]
theorem TableRow.loadall (n : BitVec 5) : TableRow.Statement (.loadall n) := by
  refine word_ext fun j hj => ?_
  simp only [loadallWord, opWord, BitVec.getLsbD_and, BitVec.getLsbD_or, BitVec.getLsbD_shiftLeft, BitVec.getLsbD_setWidth]
  interval_cases j <;> simp [BitVec.getLsbD_of_ge, rowOf]
theorem TableRow.cfg (r : BitVec 4) (v : BitVec 24) : TableRow.Statement (.cfg r v) := by
  refine word_ext fun j hj => ?_
  simp only [cfgWord, opWord, BitVec.getLsbD_and, BitVec.getLsbD_or, BitVec.getLsbD_shiftLeft, BitVec.getLsbD_setWidth]
  interval_cases j <;> simp [BitVec.getLsbD_of_ge, rowOf]
theorem TableRow.reset : TableRow.Statement (.reset) := rfl
theorem TableRow.close : TableRow.Statement (.close) := rfl
theorem TableRow.txtake : TableRow.Statement (.txtake) := rfl
theorem TableRow.rpttake : TableRow.Statement (.rpttake) := rfl
theorem TableRow.reservedOp0 (any : BitVec 28) : TableRow.Statement (.reservedOp0 any) := by
  refine word_ext fun j hj => ?_
  simp only [reservedWord, opWord, BitVec.getLsbD_and, BitVec.getLsbD_or, BitVec.getLsbD_shiftLeft, BitVec.getLsbD_setWidth]
  interval_cases j <;> simp [BitVec.getLsbD_of_ge, rowOf]
theorem TableRow.reservedOpE (any : BitVec 28) : TableRow.Statement (.reservedOpE any) := by
  refine word_ext fun j hj => ?_
  simp only [reservedWord, opWord, BitVec.getLsbD_and, BitVec.getLsbD_or, BitVec.getLsbD_shiftLeft, BitVec.getLsbD_setWidth]
  interval_cases j <;> simp [BitVec.getLsbD_of_ge, rowOf]
theorem TableRow.reservedOpF (any : BitVec 28) : TableRow.Statement (.reservedOpF any) := by
  refine word_ext fun j hj => ?_
  simp only [reservedWord, opWord, BitVec.getLsbD_and, BitVec.getLsbD_or, BitVec.getLsbD_shiftLeft, BitVec.getLsbD_setWidth]
  interval_cases j <;> simp [BitVec.getLsbD_of_ge, rowOf]
theorem TableRow.recallFrame (c : Byte) : TableRow.Statement (.recallFrame c) := by
  have h : packHeader typeRecall 0 &&& 0xFF#8 = 0x80#8 := by decide
  exact h
theorem TableRow.updateFrame (u c : Byte) : TableRow.Statement (.updateFrame u c) := by
  have h : packHeader typeUpdate 1 &&& 0xFF#8 = 0xE1#8 := by decide
  exact h
theorem TableRow.allFrame (p : List Byte) (c : Byte) : TableRow.Statement (.allFrame p c) := by
  have h : ∀ n : BitVec 5, packHeader typeAll n &&& 0xE0#8 = 0x20#8 := by decide +kernel
  exact h _

end Sys2Proof.Laws
end

