-- ==== Sys2Proof/Tests/Slice0.lean ====
section
/-! SUPPORT. Tests. The smoke tests of WellFormed; words and frames written out from the spec; one step of each instruction
against spec/95_test_vectors.md (its section in each docstring); and, for every statement with hypotheses, a state and
operands that meet them. -/

namespace Sys2Proof.Tests

open Sys2Proof Sys2Proof.Machine

/-! ## States -/

/-- The state of an outcome that is a next state. -/
def stateOf (o : Host.Outcome State Fault Refusal) (default : State) : State :=
  match o with
  | .next t => t
  | .fault r => nomatch r
  | .refused _ => default

/-- One instruction run. -/
def ran (i : Instr) (s : State) : State := stateOf (exec i s) s

/-- One event word delivered alone and stepped. -/
def stepped (w : EventWord) (s : State) : State := stateOf (step { s with input := [w] }) s

/-- "Active(base)" of section 0. -/
def active : State := { State.reset with lstate := .active, heard := true, txq := [[0x80, 0x80]] }

/-- AwaitingRecallResponse, its Recall taken. -/
def awaiting : State := { State.reset with lstate := .awaitingRecallResponse }

/-- Failed after a response timeout. -/
def failed : State := { State.reset with lstate := .failed, fcause := .responseTimeout, priorFail := true }

/-- A Station in PoweredUp. -/
def station : State := { State.reset with sess := { State.reset.sess with role := .station } }

/-- A state of six expansion units. -/
def wide (s : State) : State := { s with cfg := { s.cfg with euc := 6 }, sess := { s.sess with euc := 6 } }

/-- A state with a queue depth of one frame. -/
def shallow (s : State) : State := { s with params := { s.params with txqDepth := some 1 } }

/-- Active with an empty TXQ of depth one, and one point not yet reported. -/
def onePending : State := shallow { active with txq := [], v := 4 }

/-- Active with room for all 32 points beside the frame queued. -/
def roomy : State := { active with params := { active.params with txqDepth := some 33 } }

/-! ## WellFormed -/

/-- R91: LEN is 5 bits, so an ALL of 32 payload bytes is no instruction. -/
theorem test_wellFormed_refuses_all_of_32 : (Instr.allFrame (List.replicate 32 0) 0).wellFormed = false := by decide

/-- R91: 31 payload bytes fit LEN. -/
theorem test_wellFormed_accepts_all_of_31 : (Instr.allFrame (List.replicate 31 0) 0).wellFormed = true := by decide

/-! ## Decoding: words written out from R102 and R90 -/

/-- OP 0001, [8] SOP 1, BYTE 0x80. -/
theorem test_decode_rxb : decodeEvent 0b0001_0000000000000000000_1_10000000#32 = .ok (.rxb true 0x80) := by rfl

/-- OP 0010, KIND 100. -/
theorem test_decode_rxf : decodeEvent 0b0010_0000000000000000000000000_100#32 = .ok (.rxf .txFull) := by rfl

theorem test_decode_lidle : decodeEvent 0x30000000 = .ok .lidle := by rfl

theorem test_decode_ldown : decodeEvent 0x40000000 = .ok .ldown := by rfl

theorem test_decode_tick : decodeEvent 0x50000000 = .ok .tick := by rfl

/-- OP 0110, STATE 1, INDEX 20. -/
theorem test_decode_setbit : decodeEvent 0b0110_0000000000000000000_1_00010100#32 = .ok (.setbit true 20) := by rfl

/-- OP 0111, K 1111, BYTE 0x80. -/
theorem test_decode_wrstg : decodeEvent 0b0111_0000000000000000_1111_10000000#32 = .ok (.wrstg 15 0x80) := by rfl

/-- OP 1000, N 10000. -/
theorem test_decode_loadall : decodeEvent 0b1000_00000000000000000000000_10000#32 = .ok (.loadall 16) := by rfl

/-- OP 1001, REG 3, VALUE 10. -/
theorem test_decode_cfg : decodeEvent 0b1001_0011_000000000000000000001010#32 = .ok (.cfg 3 10) := by rfl

theorem test_decode_reset : decodeEvent 0xA0000000 = .ok .reset := by rfl

theorem test_decode_close : decodeEvent 0xB0000000 = .ok .close := by rfl

theorem test_decode_txtake : decodeEvent 0xC0000000 = .ok .txtake := by rfl

theorem test_decode_rpttake : decodeEvent 0xD0000000 = .ok .rpttake := by rfl

theorem test_decode_reserved :
    decodeEvent 0x00000000 = .ok (.reservedOp0 0) ∧ decodeEvent 0xE0000001 = .ok (.reservedOpE 1) ∧
      decodeEvent 0xFFFFFFFF = .ok (.reservedOpF 0x0FFFFFFF) := ⟨rfl, rfl, rfl⟩

/-- Section 2.1: TYPE 100, LEN 00000. -/
theorem test_decode_recall : decodeFrameRow [0b100_00000, 0x80] = .ok (.recallFrame 0x80) := by rfl

/-- Section 1.1: TYPE 111, LEN 00001. -/
theorem test_decode_update : decodeFrameRow [0b111_00001, 0x90, 0x8F] = .ok (.updateFrame 0x90 0x8F) := by rfl

/-- Section 1.2: TYPE 001, LEN 00100. -/
theorem test_decode_all :
    decodeFrameRow [0b001_00100, 0x01, 0x80, 0x00, 0x00, 0x5B] = .ok (.allFrame [0x01, 0x80, 0x00, 0x00] 0x5B) := by
  rfl

/-- R104 and R106: TICK with bit 0 set; RXF of KIND 5. -/
theorem test_decode_rejects :
    decodeEvent 0x50000001 = .error (.reservedBits 5) ∧ decodeEvent 0x20000005 = .error .badKind := ⟨rfl, rfl⟩

/-- R92, R93: an unknown type, a Recall of LEN 1, an Update of LEN 2, no byte. -/
theorem test_decode_rejects_frames :
    decodeFrameRow [0x41, 0x00, 0xBF] = .error .invalidType ∧
      decodeFrameRow [0x81, 0x7F] = .error .invalidLength ∧
      decodeFrameRow [0xE2, 0x90, 0x8E] = .error .invalidLength ∧ decodeFrameRow [] = .error .noHeader :=
  ⟨rfl, rfl, rfl, rfl⟩

/-- The table's numbering: an event row whole, a frame row by its header byte, its other bytes 0. -/
theorem test_decodeTableWord :
    decodeTableWord 32 0x60000114 = some (.setbit true 20) ∧ decodeTableWord 8 0x80 = some (.recallFrame 0) ∧
      decodeTableWord 8 0xE1 = some (.updateFrame 0 0) ∧ decodeTableWord 8 0x22 = some (.allFrame [0, 0] 0) :=
  ⟨rfl, rfl, rfl, rfl⟩

/-- R101, R102 as the encoder writes them. -/
theorem test_encode :
    encode (.cfg 4 2) = .event 0x94000002 ∧ encode (.wrstg 15 0x80) = .event 0x70000F80 ∧
      encode (.updateFrame 0x90 0x8F) = .frame [0xE1, 0x90, 0x8F] := by decide

/-! ## One step of each instruction -/

/-- Section 2.2: RXB 0xE1 leaves ASM_LEN 1 and ASM_EXP 3. -/
theorem test_rxb_buffers : (stepped 0x100000E1 State.reset).rdReg 0x07 = 0x00000301 := by decide

/-- Section 2.2: an SOP byte cuts off a partial frame of one byte. -/
theorem test_rxb_sop :
    (stepped 0x10000180 { State.reset with asm := [0xE1] }).rptq = [0x14000001] ∧
      (stepped 0x10000180 { State.reset with asm := [0xE1] }).asm = [0x80] := by decide

/-- P3 line 15. -/
theorem test_rxf :
    (stepped 0x20000002 State.reset).rptq = [0x20000002] ∧ (stepped 0x20000002 State.reset).failCnt = 1 := by decide

/-- P2 line 6: a Station's Recall. -/
theorem test_lidle_station :
    (stepped 0x30000000 station).rptq = [0x01000001] ∧ (stepped 0x30000000 station).txq = [[0x80, 0x80]] := by decide

/-- R250: a Controller ignores LIDLE. -/
theorem test_lidle_controller : ran .lidle State.reset = State.reset := by decide

/-- R251: from Active. -/
theorem test_ldown :
    (stepped 0x40000000 active).rptq = [0x01000033] ∧ (stepped 0x40000000 active).priorFail = true ∧
      (stepped 0x40000000 active).txq = [] := by decide

/-- Section 1.8: the first TICK in Active sets point 16 and sends it. -/
theorem test_tick_sends_health :
    (stepped 0x50000000 active).v = 0x8000 ∧
      (stepped 0x50000000 active).txq = [[0x80, 0x80], [0xE1, 0x90, 0x8F]] := by decide

/-- Section 2.5, last row: with every timeout 0, link timeout, then response timeout, then Failed. -/
theorem test_tick_all_timeouts :
    (ran .tick { awaiting with
      asm := [0xE1], sess := { State.reset.sess with linkto := 0, respto := 0, retry := 0 } }).rptq =
        [0x13000001, 0x40000000, 0x01000023] := by decide

/-- Section 2.3: SETBIT 20, 1. -/
theorem test_setbit :
    (stepped 0x60000114 active).rptq = [0x33000314] ∧
      (stepped 0x60000114 active).txq = [[0x80, 0x80], [0xE1, 0x94, 0x8B]] := by decide

/-- Section 2.3: an index out of range. -/
theorem test_setbit_range :
    (stepped 0x60000181 active).rptq = [0x31000081] ∧ (stepped 0x60000181 active).v = 0 := by decide

/-- P4 line 5. -/
theorem test_wrstg : (stepped 0x70000F80 State.reset).stg = 0x80000000000000000000000000000000 := by decide

/-- Section 2.3: WRSTG 0, 0x05 before LOADALL 4. -/
theorem test_loadall :
    (stepped 0x80000004 { active with stg := 0x05 }).txq =
      [[0x80, 0x80], [0xE1, 0x81, 0x9E], [0xE1, 0x83, 0x9C]] := by decide

/-- Section 2.3: LOADALL 6 with NB 4. -/
theorem test_loadall_length : (stepped 0x80000006 active).rptq = [0x32000406] := by decide

/-- R280: CFG EUC, 1. -/
theorem test_cfg :
    (stepped 0x90000001 State.reset).cfg.euc = 1 ∧ (stepped 0x90000001 State.reset).sess.euc = 0 := by decide

/-- P4 lines 2 and 3. -/
theorem test_cfg_rejects :
    (stepped 0x90000007 State.reset).rptq = [0x61000010] ∧
      (stepped 0x98000000 State.reset).rptq = [0x61000008] := by decide

/-- R281: the session latched, PRIOR_FAIL kept, STATE reported. -/
theorem test_reset :
    (stepped 0xA0000000 { failed with cfg := { failed.cfg with euc := 2 } }).sess.euc = 2 ∧
      (stepped 0xA0000000 failed).priorFail = true ∧ (stepped 0xA0000000 failed).rptq = [0x01000000] := by decide

/-- R282: from Active; PRIOR_FAIL is not set. -/
theorem test_close :
    (stepped 0xB0000000 active).rptq = [0x01000043] ∧ (stepped 0xB0000000 active).priorFail = false := by decide

/-- R286, and P3 line 11: held off while a frame is being received. -/
theorem test_txtake :
    (stepped 0xC0000000 active).out = some (.frame [0x80, 0x80]) ∧
      (stepped 0xC0000000 { active with asm := [0xE1] }).out = none := by decide

/-- R287. -/
theorem test_rpttake :
    (stepped 0xD0000000 { active with rptq := [0x60000000] }).out = some (.report 0x60000000) ∧
      (stepped 0xD0000000 active).out = none := by decide

/-- P4 line 16, and R290's example. -/
theorem test_reserved :
    (stepped 0xE0000000 active).rptq = [0x6000000E] ∧ (stepped 0x00000000 active).rptq = [0x60000000] ∧
      (stepped 0xF0000000 active).rptq = [0x6000000F] := by decide

/-- P4 lines 15 and 17. -/
theorem test_illegal :
    (stepped 0x50000001 active).rptq = [0x60000015] ∧ (stepped 0x20000005 active).rptq = [0x60000022] := by decide

/-- Section 2.4: Awaiting with V = {16}, Recall. -/
theorem test_recall :
    (stepped 0x10000080 { awaiting with v := 0x8000, asm := [0x80] }).txq =
      [[0x24, 0x00, 0x80, 0x00, 0x00, 0x5C]] := by decide

/-- R144: a Recall with a bad checksum. -/
theorem test_recall_bad_sum : (ran (.recallFrame 0x81) active).rptq = [0x10000280] := by decide

/-- Section 2.4: Active, Update of point 1; Update of point 33 with L = 32. -/
theorem test_update :
    (ran (.updateFrame 0x81 0x9E) active).rptq = [0x30000101] ∧
      (ran (.updateFrame 0xA1 0x7E) active).rptq = [0x31000121] := by decide

/-- Section 2.4: S_EUC = 6, Update field 0 is point 128. -/
theorem test_update_point_128 :
    (ran (.updateFrame 0x80 0x9F) (wide active)).v = 0x80000000000000000000000000000000 := by decide

/-- Section 2.4: Active, V = {1}, All of point 2. -/
theorem test_all :
    (ran (.allFrame [0x02, 0x00, 0x00, 0x00] 0xDA) { active with v := 1, r := 1 }).rptq =
      [0x30000001, 0x30000102] := by decide

/-- Section 2.4: Awaiting, the recall response. -/
theorem test_all_recall_response :
    (ran (.allFrame [0x01, 0x00, 0x00, 0x00] 0xDB) awaiting).rptq = [0x30000101, 0x01000002] := by decide

/-- `withFetchWord` places an event word, and a frame's last byte, where the next step runs it. -/
theorem test_withFetchWord :
    (stateOf (step (State.reset.withFetchWord 32 0xE0000000)) State.reset).rptq = [0x6000000E] ∧
      (stateOf (step (State.reset.withFetchWord 8 0xE1)) State.reset).rptq = [0x100003E1] := by decide

/-- P1's STATUS bits at the end of section 3's P4: Active, HEARD, IRQ. -/
theorem test_status : State.status { active with txq := [], rptq := [0x60000000] } = 0x00001202 := by decide

/-- R109 to R111: lines of text. -/
theorem test_assembler :
    (readLine "CFG RESPTO, 2".toList).map AsmLine.words = some [0x94000002] ∧
      (readLine "RXFRAME.SOP 0x80, 0x80".toList).map AsmLine.words = some [0x10000180, 0x10000080] ∧
      asmUpdate 128 false = [0xE1, 0x00, 0x1F] := by decide

/-! ## Witnesses: for each statement with hypotheses, what meets them, at boundary values of each clause -/

theorem witness_EncodeThenDecodeReturnsTheInstruction :
    (Instr.allFrame (List.replicate 31 0xFF) 0).wellFormed = true ∧ (Instr.allFrame [] 0).wellFormed = true ∧
      (Instr.cfg 15 0xFFFFFF).wellFormed = true := by decide

theorem witness_DecodedEncodingIsTheOnlyOne :
    decode (.event 0x9FFFFFFF) = .ok (.cfg 15 0xFFFFFF) ∧ decode (.frame [0x20, 0xE0]) = .ok (.allFrame [] 0xE0) :=
  ⟨rfl, rfl⟩

theorem witness_EveryInstructionAndStepCompletes : active.input = [] := by decide

theorem witness_StepRunsTheDecodedEvent :
    State.input { active with input := [0x50000000, 0x30000000] } = 0x50000000 :: [0x30000000] ∧
      decodeEvent 0x50000000 = .ok .tick := ⟨rfl, rfl⟩

theorem witness_CompletedFrameRunsItsInstruction :
    decodeFrameRow (State.asm { active with asm := [0x80] } ++ [0x80]) = .ok (.recallFrame 0x80) := by rfl

/-- Reason 0 with reserved-looking bits set, reason 1 on RXF with a bad KIND too, reason 2 at KIND 5. -/
theorem witness_IllegalWordsOnlyReport :
    State.input { active with input := [0xEFFFFFFF] } = 0xEFFFFFFF :: [] ∧
      (opField 0xEFFFFFFF = 0x0 ∨ opField 0xEFFFFFFF = 0xE ∨ opField 0xEFFFFFFF = 0xF) ∧
      ¬(opField 0x2000000D = 0x0 ∨ opField 0x2000000D = 0xE ∨ opField 0x2000000D = 0xF) ∧
      reservedBitsOf 0x2000000D ≠ 0 ∧
      opField 0x20000005 = 0x2 ∧ reservedBitsOf 0x20000005 = 0 ∧ 4 < (0x20000005 : EventWord).toNat % 8 := by decide

theorem witness_FrameRoundTrip :
    (List.replicate 16 (0xFF : Byte)).length = expectedLen .msgAll 6 ∧ ([] : List Byte).length = expectedLen .msgRecall 0 ∧
      (6 : Nat) ≤ 6 ∧ (1 : Nat) ≤ 128 ∧ (128 : Nat) ≤ 128 := by decide

theorem witness_DecodedFrameIsAnEncodedFrame :
    codecDecode [0xE1, 0x00, 0x1F] 6 = .ok ⟨.bodyUpdate 128 false, .msgUpdate, [0x00], 0x1F⟩ := by rfl

theorem witness_BadSumIsAlwaysChecksumFailure :
    (([0xE1, 0x90, 0x8E] : List Byte).map BitVec.toNat).sum % 256 ≠ 0 ∧
      (([0x41, 0x00, 0x00] : List Byte).map BitVec.toNat).sum % 256 ≠ 0 := by decide

theorem witness_AllPayloadPacksPointsInOrder :
    (15 : Nat) < 16 ∧ (7 : Nat) < 8 ∧ (List.replicate 16 (0xFF : Byte)).length ≤ 16 ∧
      128 ≤ 8 * (List.replicate 16 (0xFF : Byte)).length ∧
      8 * (List.replicate 4 (0xFF : Byte)).length < 33 ∧ (128 : Nat) ≤ 32 + 16 * 6 := by decide

theorem witness_DiffApplyReplaceLaws :
    diff 0b101 0x8006 32 = [(1, false), (2, true), (16, true)] ∧ (128 : Nat) ≤ 128 ∧ (1 : Nat) ≤ 1 := by decide

/-- Exactly the room the differences need. -/
theorem witness_EmitDiffSendsEveryDifference :
    diff onePending.r onePending.v onePending.len = [(3, true)] ∧
      ∀ d, onePending.params.txqDepth = some d →
        onePending.txq.length + (diff onePending.r onePending.v onePending.len).length ≤ d := by
  refine ⟨by decide, ?_⟩
  intro d h
  cases h
  decide

/-- One point differs on a full queue. -/
theorem witness_FullQueueKeepsUpdatesPending :
    hasRoom (shallow { active with v := 4 }).txq.length (shallow { active with v := 4 }).params.txqDepth = false ∧
      diff active.r 4 active.len = [(3, true)] := by decide

/-- Section 2.3, the overflow table's last row: points 1, 2 and 16 pending and room for one. -/
theorem test_emitDiff_partial :
    (State.emitDiff { onePending with v := 0x8003 }).txq = [[0xE1, 0x81, 0x9E]] ∧
      (State.emitDiff { onePending with v := 0x8003 }).rptq = [0x70000007, 0x70000007] ∧
      (State.emitDiff { onePending with v := 0x8003 }).r = 1 := by decide

theorem witness_FailedDropsReception : failed.lstate = .failed := by decide

/-- A first byte, and a byte short of a frame of 33. -/
theorem witness_RxbBuffersAPartialFrame :
    active.lstate ≠ .failed ∧ (true = true → active.asm = []) ∧ active.asm ++ [0x80] = 0x80 :: [] ∧
      ([] : List Byte).length ≠ (0x80 : Byte).toNat % 32 + 1 ∧
      State.asm { active with asm := 0x3F :: List.replicate 30 0 } ++ [0] = 0x3F :: List.replicate 31 0 ∧
      (List.replicate 31 (0 : Byte)).length ≠ (0x3F : Byte).toNat % 32 + 1 := by decide

theorem witness_SopDropsThePartialFrame :
    State.lstate { active with asm := [0xE1] } ≠ .failed ∧ State.asm { active with asm := [0xE1] } ≠ [] ∧
      (State.asm { active with asm := 0x3F :: List.replicate 31 0 }).length ≤ 33 := by decide

/-- A bad sum, the type 010, an All of LEN 31, a Recall of LEN 1 and an Update of LEN 2, each complete. -/
theorem witness_RxbReportsAFrameThatFailsDecode :
    active.lstate ≠ .failed ∧
      State.asm { active with asm := [0xE1, 0x90] } ++ [0x8E] = 0xE1 :: [0x90, 0x8E] ∧
      ([0x90, 0x8E] : List Byte).length = (0xE1 : Byte).toNat % 32 + 1 ∧
      (([0xE1, 0x90, 0x8E] : List Byte).map BitVec.toNat).sum % 256 ≠ 0 ∧
      (([0x41, 0x00, 0xBF] : List Byte).map BitVec.toNat).sum % 256 = 0 ∧
      ([0x00, 0xBF] : List Byte).length = (0x41 : Byte).toNat % 32 + 1 ∧
      (0x41 : Byte).toNat / 32 ≠ 1 ∧ (0x41 : Byte).toNat / 32 ≠ 4 ∧ (0x41 : Byte).toNat / 32 ≠ 7 ∧
      (((0x3F : Byte) :: (List.replicate 31 0 ++ [0xC1])).map BitVec.toNat).sum % 256 = 0 ∧
      (0x3F : Byte).toNat / 32 = 1 ∧ (0x3F : Byte).toNat % 32 ≠ active.nb ∧
      (0x81 : Byte).toNat / 32 = 4 ∧ (0x81 : Byte).toNat % 32 ≠ 0 ∧
      (([0x81, 0x00, 0x7F] : List Byte).map BitVec.toNat).sum % 256 = 0 ∧
      (0xE2 : Byte).toNat / 32 = 7 ∧ (0xE2 : Byte).toNat % 32 ≠ 1 ∧
      (([0xE2, 0x90, 0x8E, 0x00] : List Byte).map BitVec.toNat).sum % 256 = 0 := by decide

theorem witness_BadFramesOnlyReport :
    active.lstate ≠ .failed ∧ (0x81 : Byte) ≠ 0x80 ∧
      (0xE1 + (0x90 : Byte).toNat + (0x8E : Byte).toNat) % 256 ≠ 0 ∧
      (List.replicate 31 (0 : Byte)).length ≤ 31 ∧
      (0x20 + 31 + ((List.replicate 31 (0 : Byte)).map BitVec.toNat).sum + (0xC0 : Byte).toNat) % 256 ≠ 0 ∧
      (List.replicate 31 (0 : Byte)).length ≠ active.nb ∧
      (0x20 + 31 + ((List.replicate 31 (0 : Byte)).map BitVec.toNat).sum + (0xC1 : Byte).toNat) % 256 = 0 := by decide

theorem witness_LineIdleMakesAStationRecall :
    station.lstate = .poweredUp ∧ station.sess.role = .station ∧
      ¬(active.lstate = .poweredUp ∧ active.sess.role = .station) := by decide

theorem witness_LinkDownAndCloseEnterFailed : failed.lstate = .failed ∧ active.lstate ≠ .failed := by decide

theorem witness_RecallIsAnsweredWithTheVector :
    awaiting.lstate ≠ .failed ∧ hasRoom awaiting.txq.length awaiting.params.txqDepth = true ∧
      (shallow active).lstate ≠ .failed ∧
      hasRoom (shallow active).txq.length (shallow active).params.txqDepth = false := by decide

/-- Point 33 of 32 and point 128; point 16; point 32; the same state again. -/
theorem witness_UpdateAppliesInActive :
    active.lstate = .active ∧
      (0xE1 + (0xA1 : Byte).toNat + (0x7E : Byte).toNat) % 256 = 0 ∧ active.len < namedPoint 0xA1 ∧
      (0xE1 + (0x80 : Byte).toNat + (0x9F : Byte).toNat) % 256 = 0 ∧ active.len < namedPoint 0x80 ∧
      (0xE1 + (0x90 : Byte).toNat + (0x8F : Byte).toNat) % 256 = 0 ∧ namedPoint 0x90 = 16 ∧
      (0xE1 + (0xA0 : Byte).toNat + (0x7F : Byte).toNat) % 256 = 0 ∧ ¬active.len < namedPoint 0xA0 ∧
      pt active.v (namedPoint 0xA0) ≠ namedState 0xA0 ∧
      pt active.v (namedPoint 0x20) = namedState 0x20 := by decide

theorem witness_AllReplacesTheVector :
    ([0x02, 0x00, 0x00, 0x00] : List Byte).length = active.nb ∧
      (0x20 + 4 + (([0x02, 0x00, 0x00, 0x00] : List Byte).map BitVec.toNat).sum + (0xDA : Byte).toNat) % 256 = 0 ∧
      active.lstate = .active ∧ awaiting.lstate = .awaitingRecallResponse ∧ awaiting.nb = active.nb ∧
      (List.replicate 16 (0xFF : Byte)).length = (wide active).nb ∧
      (0x20 + 16 + ((List.replicate 16 (0xFF : Byte)).map BitVec.toNat).sum + (0xE0 : Byte).toNat) % 256 = 0 := by
  decide

theorem witness_UnexpectedFramesOnlyReport :
    State.reset.lstate = .poweredUp ∧ awaiting.lstate = .awaitingRecallResponse ∧
      (0xE1 + (0x81 : Byte).toNat + (0x9E : Byte).toNat) % 256 = 0 ∧
      ([0, 0, 0, 0] : List Byte).length = State.reset.nb ∧
      (0x20 + 4 + (([0, 0, 0, 0] : List Byte).map BitVec.toNat).sum + (0xDC : Byte).toNat) % 256 = 0 := by decide

/-- A Controller at its fifth tick and at its fourth, and a Station after a failure. -/
theorem witness_TickSendsThePowerUpRecall :
    State.lstate { State.reset with puCnt := 4 } = .poweredUp ∧ (State.asm { State.reset with puCnt := 4 }).length ≤ 33 ∧
      (State.reset.sess.role = .controller ∧ 5 * State.reset.params.ticksPerSecond ≤ min (4 + 1) 4294967295) ∧
      ¬5 * State.reset.params.ticksPerSecond ≤ min (3 + 1) 4294967295 ∧
      State.lstate { station with priorFail := true } = .poweredUp ∧ station.sess.role = .station := by decide

/-- The tick before the timeout, the timeout with a retry left, and with none. -/
theorem witness_TickRetriesThenFails :
    awaiting.lstate = .awaitingRecallResponse ∧ awaiting.asm.length ≤ 33 ∧
      min (2 + 1) 4294967295 < awaiting.sess.respto.toNat ∧ ¬min (3 + 1) 4294967295 < awaiting.sess.respto.toNat ∧
      (1 : BitVec 8).toNat < awaiting.sess.retry.toNat ∧ ¬(2 : BitVec 8).toNat < awaiting.sess.retry.toNat := by decide

/-- The ninth tick of an S_POLLTO of 10, and the tenth. -/
theorem witness_TickFailsOrServesAnActiveLink :
    active.lstate = .active ∧ active.asm.length ≤ 33 ∧
      min ((State.idleCnt { active with idleCnt := 8 }).toNat + 1) 4294967295 < active.sess.pollto.toNat ∧
      active.sess.pollto.toNat ≤ min ((State.idleCnt { active with idleCnt := 9 }).toNat + 1) 4294967295 := by decide

theorem witness_TickInFailedOnlyServesTimers : failed.lstate = .failed ∧ failed.asm.length ≤ 33 := by decide

/-- The last tick before S_LINKTO = 3, and the tick that reaches it. -/
theorem witness_TickDiscardsAStalePartialFrame :
    State.asm { active with asm := [0xE1], asmCnt := 2 } ≠ [] ∧
      (State.asm { active with asm := 0x3F :: List.replicate 31 0 }).length ≤ 33 ∧
      active.sess.linkto.toNat ≤ min ((State.asmCnt { active with asm := [0xE1], asmCnt := 2 }).toNat + 1) 4294967295 ∧
      ¬active.sess.linkto.toNat ≤
        min ((State.asmCnt { active with asm := [0xE1], asmCnt := 1 }).toNat + 1) 4294967295 := by decide

theorem witness_TickPollsAnIdleActiveLink :
    active.lstate = .active ∧ active.asm = [] ∧ min (active.idleCnt.toNat + 1) 4294967295 < active.sess.pollto.toNat ∧
      ∀ i, 1 ≤ i → i ≤ active.len →
        pt (State.r { active with r := 0x8000 }) i = pt (setpt active.v 16 active.heard) i := by
  refine ⟨by decide, by decide, by decide, ?_⟩
  intro i _ _
  have h : setpt active.v 16 active.heard = 0x8000 := by decide
  rw [h]

/-- Room for all 32 points. -/
theorem witness_TickSendsEveryPendingPoint :
    roomy.lstate = .active ∧ min (roomy.idleCnt.toNat + 1) 4294967295 < roomy.sess.pollto.toNat ∧
      ∀ d, roomy.params.txqDepth = some d → roomy.txq.length + roomy.len ≤ d := by
  refine ⟨by decide, by decide, ?_⟩
  intro d h
  cases h
  decide

/-- Indices 0 and L + 1; 1 and L. -/
theorem witness_SetbitAppliesAndReports :
    ((0 : BitVec 8).toNat = 0 ∨ active.len < (0 : BitVec 8).toNat) ∧
      ((33 : BitVec 8).toNat = 0 ∨ active.len < (33 : BitVec 8).toNat) ∧
      1 ≤ (1 : BitVec 8).toNat ∧ (32 : BitVec 8).toNat ≤ active.len := by decide

theorem witness_LoadallCopiesTheStagingVector :
    (5 : BitVec 5).toNat ≠ active.nb ∧ (4 : BitVec 5).toNat = active.nb ∧
      (16 : BitVec 5).toNat = (wide active).nb := by decide

/-- Register 8; EUC 7, ROLE 2, RETRY 256, GAPADJ 65536; and each maximum accepted. -/
theorem witness_CfgWritesOneRegister :
    7 < (8 : BitVec 4).toNat ∧ 6 < (7 : BitVec 24).toNat ∧ 1 < (2 : BitVec 24).toNat ∧
      255 < (256 : BitVec 24).toNat ∧ 65535 < (65536 : BitVec 24).toNat ∧ (7 : BitVec 4).toNat ≤ 7 ∧
      ¬6 < (6 : BitVec 24).toNat ∧ ¬1 < (1 : BitVec 24).toNat ∧ ¬255 < (255 : BitVec 24).toNat ∧
      ¬65535 < (65535 : BitVec 24).toNat ∧ (7 : BitVec 4) ≠ 0 ∧ (7 : BitVec 4) ≠ 1 ∧ (7 : BitVec 4) ≠ 5 ∧
      (7 : BitVec 4) ≠ 6 := by decide

theorem witness_ResetReentersPoweredUp :
    (1 : Nat) ≤ 1 ∧ 128 ≤ 32 + 16 * (wide failed).cfg.euc.toNat ∧ 33 = 32 + 16 * failed.cfg.euc.toNat + 1 := by decide

theorem witness_TxtakeGivesTheOldestFrame :
    active.txq = [0x80, 0x80] :: [] ∧ active.asm = [] ∧ awaiting.txq = [] ∧
      State.asm { active with asm := [0xE1] } ≠ [] := by decide

theorem witness_RpttakeGivesTheOldestReport :
    State.rptq { active with rptq := [0x60000000] } = 0x60000000 :: [] ∧ active.rptq = [] := by decide

theorem witness_ReadWordsShowPointsInOrder : (3 : Nat) < 4 ∧ (31 : Nat) < 32 ∧ 32 * 3 + 31 + 1 = 128 := by decide

/-- A full ASM, and the first and last address of each hole of the table. -/
theorem witness_ReadPortShowsTheOtherRows :
    (State.asm { active with asm := 0x3F :: List.replicate 32 0 }).length ≤ 33 ∧
      ∀ a ∈ ([0x0C, 0x0F, 0x1C, 0x1F, 0x30, 0xFF] : List (BitVec 8)),
        0x0C ≤ a.toNat ∧ a.toNat ≤ 0x0F ∨ 0x1C ≤ a.toNat ∧ a.toNat ≤ 0x1F ∨ 0x30 ≤ a.toNat := by decide

theorem witness_PowerOnValuesAreTheTable : State.reset = State.powerOn Config.params := rfl

/-- Active(base) meets the invariant. -/
theorem witness_inv : Inv active where
  cfgEuc := by decide
  sessEuc := by decide
  vAbove := by intro i _ _; exact BitVec.getLsbD_zero
  rAbove := by intro i _ _; exact BitVec.getLsbD_zero
  asmPartial := by decide
  asmTimer := by decide
  failedEmpty := by decide
  puOutside := by decide
  puStation := by decide
  respOutside := by decide
  retryBound := by decide
  causeInFailed := by decide
  activeHeard := by decide
  healthHeard := by decide
  txqBound := by intro d h; cases h; decide
  rptqBound := by intro d h; cases h; decide
  txqValid := by
    intro f h
    simp only [active, List.mem_singleton] at h
    subst h
    exact ⟨_, rfl⟩
  rptqCodes := by intro w h; cases h

theorem witness_StepKeepsTheStateInvariant : Inv active ∧ ∃ t, step active = .next t := ⟨witness_inv, _, rfl⟩

theorem witness_EveryReachableStateMeetsTheInvariant :
    Reachable Config.params { State.powerOn Config.params with input := [0x50000000] } :=
  .deliver _ 0x50000000 .powerOn

theorem witness_EveryScheduleRunsToItsEnd :
    IsSchedule [0x30000000] [0xB0000000] [0x50000000] [0x30000000, 0x50000000, 0xB0000000] :=
  ⟨[0x30000000, 0xB0000000], .left _ _ _ _ (.right _ _ _ _ .nil), .left _ _ _ _ (.right _ _ _ _ (.left _ _ _ _ .nil))⟩

theorem witness_LinkStateChangesOnlyByTheTable : Inv active ∧ ∃ t, exec .close active = .next t := ⟨witness_inv, _, rfl⟩

theorem witness_OnlyTickAndResetWriteTheHealthBit :
    (∃ t, exec .reset active = .next t) ∧ ∃ t, exec (.updateFrame 0x90 0x8F) active = .next t := ⟨⟨_, rfl⟩, _, rfl⟩

theorem witness_ConfigurationTakesEffectOnlyAtReset :
    (∃ t, exec .reset active = .next t) ∧ (∃ t, exec .close active = .next t) ∧ Instr.close ≠ .reset ∧
      ∀ r v, Instr.close ≠ .cfg r v := by
  refine ⟨⟨_, rfl⟩, ⟨_, rfl⟩, by decide, ?_⟩
  intro r v h
  cases h

theorem witness_FailedIsTerminalUntilReset :
    failed.lstate = .failed ∧ Instr.close ≠ .reset ∧ ∃ t, exec .close failed = .next t := ⟨rfl, by decide, _, rfl⟩

/-- Points 33 and 128 lie above L = 32. -/
theorem witness_PeerAuthorityIsLimited :
    (∃ u c, Instr.updateFrame 0x90 0x8F = .updateFrame u c) ∧
      (∃ t, exec (.updateFrame 0x90 0x8F) active = .next t) ∧ Inv active ∧ active.len < 33 ∧ 128 ≤ 128 :=
  ⟨⟨_, _, rfl⟩, ⟨_, rfl⟩, witness_inv, by decide, by decide⟩

theorem witness_ReportsAndFailuresAreNeverForgotten :
    (∃ t, exec .reset { active with rptOvf := true } = .next t) ∧ Instr.reset ≠ .rpttake := ⟨⟨_, rfl⟩, by decide⟩

theorem witness_OutputsLeaveOnlyThroughTheirQueues :
    active.out = none ∧ exec .txtake active = .next { active with out := some (.frame [0x80, 0x80]), txq := [] } ∧
      exec .rpttake { active with rptq := [0x60000000] } =
        .next { active with out := some (.report 0x60000000), rptq := [] } := ⟨rfl, rfl, rfl⟩

/-- Links 0 and 1 of two; link 0 is not stepped. -/
theorem witness_LinksShareNoState :
    (∃ links, stepLink [active, failed] 1 = .next links) ∧ (0 : Nat) ≠ 1 ∧
      [active, failed][1]? = some failed ∧ ∃ t, step failed = .next t := ⟨⟨_, rfl⟩, by decide, rfl, _, rfl⟩

theorem witness_AssemblerFormsAreTheirInstructionsInOrder :
    (∀ x, AsmLine.rxf 4 ≠ .word x) ∧ (∀ k, AsmLine.rxf 4 = .rxf k → k.toNat ≤ 4) ∧
      0x20000004 ∈ (AsmLine.rxf 4).words ∧ (List.replicate 16 (0xFF : Byte))[(15 : BitVec 4).toNat]? = some 0xFF := by
  refine ⟨?_, ?_, by decide, by decide⟩
  · intro x h
    cases h
  · intro k h
    cases h
    decide

end Sys2Proof.Tests
end

section
/-! What a step takes from the pending words and what it runs (spec/43_control.md R291): one rule for the fetch, one for a
step whose word decodes. -/

namespace Sys2Proof.Machine

/-- The fetch takes the oldest pending word and clears the output of the step before. -/
theorem fetchEvent_of_input_cons {s : State} {w : EventWord} {rest : List EventWord} (hin : s.input = w :: rest) :
    s.fetchEvent = some (w, { s with input := rest, out := none }) := by
  simp only [State.fetchEvent, hin]

/-- A step whose fetched word decodes runs that instruction on the state the fetch leaves. -/
theorem step_of_fetch_decode_ok {s s1 : State} {w : EventWord} {i : Instr}
    (hfetch : s.fetchEvent = some (w, s1)) (hdec : decodeEvent w = .ok i) : step s = exec i s1 := by
  simp only [step, hfetch, hdec]

/-- Settles O4: the rule of a step, at the state the fetch of a pending word leaves. -/
theorem stepRunsTheDecodedEvent : Obligations.StepRunsTheDecodedEvent := by
  intro s w rest i hin hdec
  exact step_of_fetch_decode_ok (fetchEvent_of_input_cons hin) hdec

end Sys2Proof.Machine
end

section
/-! What one instruction can do (spec/43_control.md R291, last line): the shapes its next state can take, and the cases of
the shared operations the earlier layer does not list. -/

namespace Sys2Proof.Machine

/-! ## The stages of TICK -/

/-- The six sub-steps of TICK in order (R236). -/
def State.tickStages (s : State) : State :=
  s.tickCounters.tickLinkTimeout.tickLink.tickHealth.emitIfActive.tickKeepAlive

theorem exec_tick (s : State) : exec .tick s = .next s.tickStages := rfl

/-- T2: nothing buffered, the partial frame discarded at the limit, or one tick older (R238). -/
theorem tickLinkTimeout_cases (s : State) :
    (s.asm = [] ∧ s.tickLinkTimeout = s) ∨
    (s.asm ≠ [] ∧
      s.tickLinkTimeout = ((s.report .messageTimeout (countInfo s.asm.length)).countFailure).clearAsm) ∨
    (s.asm ≠ [] ∧ s.tickLinkTimeout = { s with asmCnt := inc s.asmCnt }) := by
  unfold State.tickLinkTimeout
  split
  · next h => exact .inl ⟨List.length_eq_zero_iff.1 h, rfl⟩
  · next h =>
    have hne : s.asm ≠ [] := fun e => h (by simp [e])
    split
    · exact .inr (.inl ⟨hne, rfl⟩)
    · exact .inr (.inr ⟨hne, rfl⟩)

/-- T3 in PoweredUp: a Controller counts and may send its Recall; a Station sends one or does nothing (R240). -/
theorem tickPoweredUp_cases (s : State) :
    (s.sess.role = .controller ∧
      (s.tickPoweredUp = { s with puCnt := inc s.puCnt } ∨
        s.tickPoweredUp = State.sendRecall { s with puCnt := inc s.puCnt })) ∨
    (s.sess.role = .station ∧ (s.tickPoweredUp = s ∨ s.tickPoweredUp = s.sendRecall)) := by
  unfold State.tickPoweredUp
  split
  · next hr =>
    refine .inl ⟨hr, ?_⟩
    split
    · exact .inr rfl
    · exact .inl rfl
  · next hr =>
    refine .inr ⟨hr, ?_⟩
    split
    · exact .inr rfl
    · exact .inl rfl

/-- The RESPONSE_TIMEOUT report of T3 in AwaitingRecallResponse, RESP_CNT counted (R241). -/
def State.reportResponseTimeout (s : State) : State :=
  State.report { s with respCnt := inc s.respCnt } .responseTimeout (zext24 s.retryCnt)

/-- T3 in AwaitingRecallResponse: RESP_CNT counts, or the timeout is reported and a retry made or the link failed
(R241). -/
theorem tickAwaiting_cases (s : State) :
    s.tickAwaiting = { s with respCnt := inc s.respCnt } ∨
    (s.reportResponseTimeout.retryCnt.toNat < s.reportResponseTimeout.sess.retry.toNat ∧
      s.tickAwaiting = State.enqueueRecall
        { s.reportResponseTimeout with retryCnt := s.reportResponseTimeout.retryCnt + 1, respCnt := 0 }) ∨
    s.tickAwaiting = s.reportResponseTimeout.enterFailed .responseTimeout := by
  unfold State.tickAwaiting
  split
  · dsimp only
    split
    · next hlt => exact .inr (.inl ⟨hlt, rfl⟩)
    · exact .inr (.inr rfl)
  · exact .inl rfl

/-- T3 in Active: nothing, or the poll timeout reported and the link failed (R242). -/
theorem tickActive_cases (s : State) :
    s.tickActive = s ∨ s.tickActive = (s.report .pollTimeout 0).enterFailed .pollTimeout := by
  unfold State.tickActive
  split
  · exact .inr rfl
  · exact .inl rfl

/-- T6: nothing, or the keep-alive Recall (R245). -/
theorem tickKeepAlive_cases (s : State) : s.tickKeepAlive = s ∨ s.tickKeepAlive = s.enqueueRecall := by
  unfold State.tickKeepAlive
  split
  · exact .inr rfl
  · exact .inl rfl

/-! ## Emission -/

theorem emitIfActive_of_active {s : State} (h : s.lstate = .active) : s.emitIfActive = s.emitDiff := if_pos h

theorem emitIfActive_of_not_active {s : State} (h : s.lstate ≠ .active) : s.emitIfActive = s := if_neg h

/-! ## The shapes of a next state -/

/-- `Effect s i t`: run in s, the instruction i can leave t. One constructor for each shape a next state takes. -/
inductive Effect (s : State) : Instr → State → Prop
  /-- Nothing: bytes and frames in Failed, LIDLE beside R250, LDOWN and CLOSE in Failed. -/
  | nothing (i : Instr) (hi : i ≠ .reset) : Effect s i s
  /-- A report and nothing else: illegal words and refused operands (R290, R280, R200, R202). -/
  | reported (i : Instr) (hi : i ≠ .reset) (code : ReportCode) (info : Info) : Effect s i (s.report code info)
  /-- RXF (R252). -/
  | fault (k : TransportFault) : Effect s (.rxf k) (s.report .transportFault (zext24 k.code)).countFailure
  /-- A byte joins ASM (R141). -/
  | byte (sop : Bool) (b : Byte) (hl : s.lstate ≠ .failed) : Effect s (.rxb sop b) (s.acceptByte b)
  /-- A byte with SOP discards the partial frame and starts a new one (R141). -/
  | restart (b : Byte) (hl : s.lstate ≠ .failed) : Effect s (.rxb true b) (s.dropPartial.acceptByte b)
  /-- A frame is complete (R141). -/
  | frame (i : Instr) (hi : i ≠ .reset) (f : List Byte) (hl : s.lstate ≠ .failed) : Effect s i (s.completeFrame f)
  /-- A Station's Recall at LIDLE (R250). -/
  | sentRecall (hl : s.lstate = .poweredUp) (hr : s.sess.role = .station) : Effect s .lidle s.sendRecall
  /-- LDOWN and CLOSE (R251, R282). -/
  | fail (i : Instr) (hi : i ≠ .reset) (cause : FCause) (hc : cause ≠ .none) (hl : s.lstate ≠ .failed) :
      Effect s i (s.enterFailed cause)
  /-- TICK (R236). -/
  | tick : Effect s .tick s.tickStages
  /-- SETBIT of a point in range (R200). -/
  | point (b : Bool) (i : BitVec 8) (v : VecReg) (changed : Bool)
      (hv : applyPoint s.v i.toNat b s.len = .ok (v, changed)) :
      Effect s (.setbit b i)
        (State.emitIfActive (State.report { s with v := v } .localApplied (localInfo i.toNat b changed)))
  /-- WRSTG (R201). -/
  | staged (k : BitVec 4) (b : Byte) : Effect s (.wrstg k b) { s with stg := setVbyte s.stg k.toNat b }
  /-- LOADALL of the right length (R202). -/
  | loaded (n : BitVec 5) :
      Effect s (.loadall n)
        (State.emitIfActive { s with v := replaceVec s.v (bitsOf (vbytes s.stg s.nb)) s.len })
  /-- CFG of a register that exists, with a value in range (R280). -/
  | configured (reg : BitVec 4) (value : BitVec 24) (hmax : value.toNat ≤ (cfgMax reg).toNat) :
      Effect s (.cfg reg value) { s with cfg := s.cfg.write reg value }
  /-- RESET (R281). -/
  | reset : Effect s .reset s.linkReset
  /-- TXTAKE or RPTTAKE that returns none (R286, R287). -/
  | noOutput (i : Instr) (hi : i ≠ .reset) : Effect s i { s with out := none }
  /-- TXTAKE of the oldest frame (R286). -/
  | tookFrame (f : List Byte) (rest : List (List Byte)) (hq : s.txq = f :: rest) :
      Effect s .txtake { s with out := some (.frame f), txq := rest }
  /-- RPTTAKE of the oldest report (R287). -/
  | tookReport (w : ReportWord) (rest : List ReportWord) (hq : s.rptq = w :: rest) :
      Effect s .rpttake { s with out := some (.report w), rptq := rest }

theorem effect_failUnlessFailed (s : State) {i : Instr} (hi : i ≠ .reset) {cause : FCause} (hc : cause ≠ .none) :
    Effect s i (s.failUnlessFailed cause) := by
  unfold State.failUnlessFailed
  split
  · exact .nothing i hi
  · exact .fail i hi cause hc (by assumption)

theorem effect_receiveWhole (s : State) {i : Instr} (hi : i ≠ .reset) (f : List Byte) :
    Effect s i (s.receiveWhole f) := by
  unfold State.receiveWhole
  split
  · exact .nothing i hi
  · exact .frame i hi f (by assumption)

theorem effect_rxb {s t : State} {sop : Bool} {b : Byte} (h : exec (.rxb sop b) s = .next t) :
    Effect s (.rxb sop b) t := by
  simp only [exec, execRxb] at h
  split at h
  · cases h; exact .nothing _ (by simp)
  · next hl =>
    split at h
    · next hs =>
      obtain ⟨rfl, -⟩ : sop = true ∧ _ := by simpa using hs
      cases h; exact .restart b hl
    · cases h; exact .byte sop b hl

theorem effect_lidle {s t : State} (h : exec .lidle s = .next t) : Effect s .lidle t := by
  cases h
  split
  · next hs =>
    obtain ⟨hl, hr⟩ := hs
    exact .sentRecall hl hr
  · exact .nothing _ (by simp)

theorem effect_setbit {s t : State} {b : Bool} {i : BitVec 8} (h : exec (.setbit b i) s = .next t) :
    Effect s (.setbit b i) t := by
  simp only [exec, execSetbit] at h
  split at h
  · cases h; exact .reported _ (by simp) _ _
  · next hv => cases h; exact .point b i _ _ hv

theorem effect_loadall {s t : State} {n : BitVec 5} (h : exec (.loadall n) s = .next t) :
    Effect s (.loadall n) t := by
  simp only [exec, execLoadall] at h
  split at h
  · cases h; exact .reported _ (by simp) _ _
  · cases h; exact .loaded n

theorem effect_cfg {s t : State} {reg : BitVec 4} {value : BitVec 24} (h : exec (.cfg reg value) s = .next t) :
    Effect s (.cfg reg value) t := by
  simp only [exec, execCfg] at h
  split at h
  · cases h; exact .reported _ (by simp) _ _
  · split at h
    · cases h; exact .reported _ (by simp) _ _
    · next hmax => cases h; exact .configured reg value (by omega)

theorem effect_txtake {s t : State} (h : exec .txtake s = .next t) : Effect s .txtake t := by
  simp only [exec, execTxtake] at h
  split at h
  · cases h; exact .noOutput _ (by simp)
  · next hq =>
    split at h
    · cases h; exact .tookFrame _ _ hq
    · cases h; exact .noOutput _ (by simp)

theorem effect_rpttake {s t : State} (h : exec .rpttake s = .next t) : Effect s .rpttake t := by
  simp only [exec, execRpttake] at h
  split at h
  · cases h; exact .noOutput _ (by simp)
  · next hq => cases h; exact .tookReport _ _ hq

/-- Every next state of an instruction is one of the shapes of `Effect`. -/
theorem effect_of_exec {i : Instr} {s t : State} (h : exec i s = .next t) : Effect s i t := by
  cases i with
  | rxb sop b => exact effect_rxb h
  | rxf k => cases h; exact .fault k
  | lidle => exact effect_lidle h
  | ldown => cases h; exact effect_failUnlessFailed s (by simp) (by simp)
  | tick => rw [exec_tick] at h; cases h; exact .tick
  | setbit b i => exact effect_setbit h
  | wrstg k b => cases h; exact .staged k b
  | loadall n => exact effect_loadall h
  | cfg reg value => exact effect_cfg h
  | reset => cases h; exact .reset
  | close => cases h; exact effect_failUnlessFailed s (by simp) (by simp)
  | txtake => exact effect_txtake h
  | rpttake => exact effect_rpttake h
  | reservedOp0 any => cases h; exact .reported _ (by simp) _ _
  | reservedOpE any => cases h; exact .reported _ (by simp) _ _
  | reservedOpF any => cases h; exact .reported _ (by simp) _ _
  | recallFrame c => cases h; exact effect_receiveWhole s (by simp) _
  | updateFrame u c => cases h; exact effect_receiveWhole s (by simp) _
  | allFrame p c => cases h; exact effect_receiveWhole s (by simp) _

end Sys2Proof.Machine
end

section
/-! Facts about the codec and the vector store that the invariant rests on: the frames the block builds are valid
(spec/40_frame_codec.md R133, R135), what is 0 above the vector length stays 0 (R38), and which writes reach the health
point (R37). -/

namespace Sys2Proof.Machine

/-! ## Frames the block builds -/

/-- A frame of the right payload length decodes to its type and payload (R133, R135). -/
theorem codecDecode_frameBytes (t : MsgType) (p : List Byte) (e : Nat) (hp : p.length = expectedLen t e)
    (he : e ≤ 6) :
    codecDecode (frameBytes t p) e =
      .ok ⟨frameBody t p, t, p, checksum (packHeader t.code (BitVec.ofNat 5 p.length) :: p)⟩ := by
  have hsum : sum8 (frameBytes t p) = 0 := by
    simp [frameBytes, checksum, sum8_append]
  have hlen : p.length < 32 := by
    cases t <;> simp only [expectedLen] at hp <;> omega
  have hhdr : (BitVec.ofNat 5 p.length).toNat = p.length := by
    simpa [BitVec.toNat_ofNat] using hlen
  simp only [codecDecode, hsum]
  simp [frameBytes, ← hp, hhdr]

/-! ## Points above the vector length -/

/-- Every point of x above n is 0, as R38 has it of V and R. -/
def ZeroAbove (n : Nat) (x : VecReg) : Prop := ∀ i, n < i → i ≤ 128 → pt x i = false

theorem zeroAbove_zero (n : Nat) : ZeroAbove n 0 := fun i _ _ => pt_zero i

theorem ZeroAbove.setpt {n : Nat} {x : VecReg} (hx : ZeroAbove n x) {i : Nat} (b : Bool) (h1 : 1 ≤ i) (hn : i ≤ n)
    (h128 : i ≤ 128) : ZeroAbove n (setpt x i b) := by
  intro j hj hj128
  rw [pt_setpt x i j b h1 (by omega) h128, if_neg (by omega), hx j hj hj128]

theorem ZeroAbove.replaceVec {n : Nat} {x : VecReg} (hx : ZeroAbove n x) (b : VecReg) :
    ZeroAbove n (replaceVec x b n) := by
  intro j hj hj128
  rw [pt_replaceVec x b n j (by omega) hj128, if_neg (by omega), hx j hj hj128]

theorem zeroAbove_and_pointsTo (n : Nat) (x : VecReg) : ZeroAbove n (x &&& pointsTo n) := by
  intro j hj hj128
  have hp : pt (pointsTo n) j = false := by
    rw [pt_pointsTo n j (by omega) hj128]; simpa using hj
  have hand : pt (x &&& pointsTo n) j = (pt x j && pt (pointsTo n) j) := by simp [pt]
  rw [hand, hp, Bool.and_false]

/-- `replace` keeps the health point (R182, R37). -/
@[simp] theorem pt_replaceVec_health (x b : VecReg) (n : Nat) :
    pt (replaceVec x b n) healthPoint = pt x healthPoint := by
  rw [pt_replaceVec x b n healthPoint (by decide) (by decide), if_neg (by simp)]

/-- Writing the health point writes it. -/
@[simp] theorem pt_setpt_health (x : VecReg) (b : Bool) : pt (setpt x healthPoint b) healthPoint = b := by
  rw [pt_setpt x healthPoint healthPoint b (by decide) (by decide) (by decide), if_pos rfl]

/-- There is no point above 128 to write. -/
theorem setpt_above (x : VecReg) {i : Nat} (b : Bool) (h : 128 < i) : setpt x i b = x := by
  have h0 (y : VecReg) : y <<< (i - 1) = 0#128 := BitVec.shiftLeft_eq_zero (by omega)
  rw [setpt, h0, h0, BitVec.or_zero, BitVec.not_zero, BitVec.and_allOnes]

/-- Writing another point keeps the health point. -/
theorem pt_setpt_of_ne_health (x : VecReg) {i : Nat} (b : Bool) (h1 : 1 ≤ i) (hi : i ≠ healthPoint) :
    pt (setpt x i b) healthPoint = pt x healthPoint := by
  by_cases h128 : i ≤ 128
  · rw [pt_setpt x i healthPoint b h1 (by decide) h128, if_neg (Ne.symm hi)]
  · rw [setpt_above x b (by omega)]

/-- `apply` keeps the health point (R181, R37). -/
theorem applyPoint_health {x x' : VecReg} {i n : Nat} {b changed : Bool}
    (h : applyPoint x i b n = .ok (x', changed)) : pt x' healthPoint = pt x healthPoint := by
  rcases applyPoint_cases x i b n with ⟨-, e⟩ | ⟨-, -, -, e⟩ | ⟨h1, -, h3, e⟩ <;> rw [e] at h <;> cases h
  · rfl
  · exact pt_setpt_of_ne_health x b h1 h3

/-- `apply` keeps the points above the length 0 (R181, R38). -/
theorem ZeroAbove.applyPoint {x x' : VecReg} {i n : Nat} {b changed : Bool} (hx : ZeroAbove n x) (hn : n ≤ 128)
    (h : applyPoint x i b n = .ok (x', changed)) : ZeroAbove n x' := by
  rcases applyPoint_cases x i b n with ⟨-, e⟩ | ⟨-, -, -, e⟩ | ⟨h1, h2, -, e⟩ <;> rw [e] at h <;> cases h
  · exact hx
  · exact hx.setpt b h1 h2 (by omega)

end Sys2Proof.Machine
end

section
/-! The state invariant, operation by operation: what every shared operation keeps of `Inv`, and from it what every
instruction keeps. -/

namespace Sys2Proof.Machine

/-! ## What the invariant says at once -/

theorem Inv.len_le {s : State} (h : Inv s) : s.len ≤ 128 := by
  have := h.sessEuc
  simp only [State.len]
  omega

theorem healthPoint_le_len (s : State) : healthPoint ≤ s.len := by
  simp only [healthPoint, State.len]
  omega

/-- Outside Failed there is no cause (R22). -/
theorem Inv.fcause_none {s : State} (h : Inv s) (hl : s.lstate ≠ .failed) : s.fcause = .none :=
  Classical.not_not.1 fun hc => hl (h.causeInFailed.2 hc)

/-! ## The shared operations -/

theorem Inv.report {s : State} (h : Inv s) (c : ReportCode) (x : Info) : Inv (s.report c x) := by
  rcases report_cases s c x with ⟨hroom, e⟩ | ⟨-, e⟩ <;> rw [e]
  · exact { h with
      rptqBound := fun d hd => by
        rw [show s.params.rptqDepth = some d from hd] at hroom
        simpa using hasRoom_bound hroom
      rptqCodes := fun w hw => by
        rcases List.mem_append.1 hw with hw | hw
        · exact h.rptqCodes w hw
        · exact ⟨c, x, List.mem_singleton.1 hw⟩ }
  · exact { h with }

theorem Inv.countFailure {s : State} (h : Inv s) : Inv s.countFailure := { h with }

theorem Inv.clearAsm {s : State} (h : Inv s) : Inv s.clearAsm :=
  { h with
    asmPartial := fun hne => absurd rfl hne
    asmTimer := fun _ => rfl
    failedEmpty := fun hl => ⟨rfl, (h.failedEmpty hl).2⟩ }

theorem Inv.heardFrame {s : State} (h : Inv s) : Inv s.heardFrame :=
  { h with activeHeard := fun _ => rfl, healthHeard := fun _ => rfl }

/-- TXQ takes one more valid frame, outside Failed and with room for it. -/
theorem Inv.queueFrame {s : State} (h : Inv s) (hl : s.lstate ≠ .failed)
    (hroom : hasRoom s.txq.length s.params.txqDepth = true) {t : MsgType} {p : List Byte}
    (hp : p.length = expectedLen t s.sess.euc.toNat) :
    Inv { s with txq := s.txq ++ [frameBytes t p], txidleCnt := 0 } :=
  { h with
    failedEmpty := fun hf => absurd hf hl
    txqBound := fun d hd => by
      rw [show s.params.txqDepth = some d from hd] at hroom
      simpa using hasRoom_bound hroom
    txqValid := fun f hf => by
      rcases List.mem_append.1 hf with hf | hf
      · exact h.txqValid f hf
      · rw [List.mem_singleton.1 hf]
        exact ⟨_, codecDecode_frameBytes t p _ hp h.sessEuc⟩ }

theorem Inv.enqueueRecall {s : State} (h : Inv s) (hl : s.lstate ≠ .failed) : Inv s.enqueueRecall := by
  unfold State.enqueueRecall
  rcases enqueueTx_cases s (frameBytes .msgRecall []) with ⟨hroom, e⟩ | ⟨-, e⟩ <;> rw [e]
  · exact h.queueFrame hl hroom rfl
  · exact (h.report _ _).countFailure

theorem Inv.emitUpdate {s : State} (h : Inv s) (hl : s.lstate ≠ .failed) {i : Nat} (b : Bool) (h1 : 1 ≤ i)
    (hi : i ≤ s.len) : Inv (s.emitUpdate (i, b)) := by
  rcases emitUpdate_cases s (i, b) with ⟨hroom, e⟩ | ⟨-, e⟩ <;> rw [e]
  · have hq := h.queueFrame hl hroom (t := .msgUpdate) (p := [updByte i b]) rfl
    have hr : ZeroAbove s.len s.r := h.rAbove
    exact { hq with rAbove := hr.setpt b h1 hi (hi.trans h.len_le) }
  · exact (h.report _ _).countFailure

theorem Inv.emitDiff {s : State} (h : Inv s) (hl : s.lstate ≠ .failed) : Inv s.emitDiff := by
  refine (emitDiff_induction (P := fun t => Inv t ∧ t.lstate = s.lstate ∧ t.len = s.len) s ⟨h, rfl, rfl⟩ ?_).1
  rintro t i b ⟨ht, hlt, hlen⟩ hm
  obtain ⟨h1, hi, -, -⟩ := (mem_diff _ _ _ _ _).1 hm
  exact ⟨ht.emitUpdate (hlt ▸ hl) b h1 (hlen ▸ hi), by simp [hlt], by simpa [State.len] using hlen⟩

theorem Inv.emitIfActive {s : State} (h : Inv s) : Inv s.emitIfActive := by
  by_cases hl : s.lstate = .active
  · rw [emitIfActive_of_active hl]
    exact h.emitDiff (by simp [hl])
  · rwa [emitIfActive_of_not_active hl]

theorem Inv.answerRecall {s : State} (h : Inv s) (hl : s.lstate ≠ .failed) : Inv s.answerRecall := by
  rcases answerRecall_cases s with ⟨hroom, e⟩ | ⟨-, e⟩ <;> rw [e]
  · have hq := h.queueFrame hl hroom (t := .msgAll) (p := vbytes s.v s.nb) (vbytes_length s.v s.nb)
    exact { hq with rAbove := h.vAbove }
  · exact (h.report _ _).countFailure

/-- Sending the Recall leaves PoweredUp with its timers clear (R220). -/
theorem Inv.sendRecall {s : State} (h : Inv s) (hl : s.lstate = .poweredUp) : Inv s.sendRecall := by
  have hne : s.lstate ≠ .failed := by simp [hl]
  have hq := h.enqueueRecall hne
  have hc := h.fcause_none hne
  refine Inv.report ?_ _ _
  exact { hq with
    failedEmpty := nofun
    puOutside := fun _ => rfl
    puStation := fun _ => rfl
    respOutside := fun _ => rfl
    retryBound := Nat.zero_le _
    causeInFailed := by simp [hc]
    activeHeard := nofun }

/-- The entry into Failed empties ASM and TXQ and names a cause (R221). -/
theorem Inv.enterFailed {s : State} (h : Inv s) {cause : FCause} (hc : cause ≠ .none) : Inv (s.enterFailed cause) := by
  refine Inv.report ?_ _ _
  exact { h with
    asmPartial := fun hne => absurd rfl hne
    asmTimer := fun _ => rfl
    failedEmpty := fun _ => ⟨rfl, rfl⟩
    puOutside := fun _ => rfl
    puStation := fun _ => rfl
    respOutside := fun _ => rfl
    causeInFailed := by simp [hc]
    activeHeard := nofun
    txqBound := fun _ _ => Nat.zero_le _
    txqValid := nofun }

/-! ## Received frames -/

theorem Inv.reportChanges {s : State} (h : Inv s) (ds : List (Nat × Bool)) : Inv (s.reportChanges ds) :=
  reportChanges_induction s ds h fun _ c x ht => ht.report c x

theorem Inv.peerReplace {s : State} (h : Inv s) (b : VecReg) : Inv (s.peerReplace b) := by
  have hv : ZeroAbove s.len s.v := h.vAbove
  have hr : ZeroAbove s.len s.r := h.rAbove
  refine Inv.reportChanges ?_ _
  exact { h with
    vAbove := hv.replaceVec b
    rAbove := hr.replaceVec b
    healthHeard := by simpa using h.healthHeard }

/-- The recall response makes the link Active, with its peer heard and its counts clear (R226). -/
theorem Inv.recallResponse {s : State} (h : Inv s) (hl : s.lstate = .awaitingRecallResponse) (hh : s.heard = true)
    (b : VecReg) : Inv (s.recallResponse b) := by
  have hp := h.peerReplace b
  have hc := h.fcause_none (by simp [hl])
  refine Inv.report ?_ _ _
  exact { hp with
    failedEmpty := nofun
    puOutside := fun _ => hp.puOutside (by simp [hl])
    respOutside := fun _ => rfl
    retryBound := Nat.zero_le _
    causeInFailed := by simp [hc]
    activeHeard := fun _ => by simpa using hh }

theorem Inv.peerApply {s : State} (h : Inv s) (i : Nat) (b : Bool) : Inv (s.peerApply i b) := by
  have hv : ZeroAbove s.len s.v := h.vAbove
  have hr : ZeroAbove s.len s.r := h.rAbove
  have written (h1 : 1 ≤ i) (hi : i ≤ s.len) (h16 : i ≠ healthPoint) :
      Inv { s with v := setpt s.v i b, r := setpt s.r i b } :=
    { h with
      vAbove := hv.setpt b h1 hi (hi.trans h.len_le)
      rAbove := hr.setpt b h1 hi (hi.trans h.len_le)
      healthHeard := by
        simpa [pt_setpt_of_ne_health s.v b h1 h16] using h.healthHeard }
  rcases peerApply_cases s i b with ⟨-, e⟩ | ⟨-, -, -, e⟩ | ⟨h1, hi, h16, -, e⟩ | ⟨h1, hi, h16, -, e⟩ <;> rw [e]
  · exact h.report _ _
  · exact h
  · exact written h1 hi h16
  · exact (written h1 hi h16).report _ _

theorem Inv.frameReceived {s : State} (h : Inv s) (fr : Frame) : Inv (s.frameReceived fr) := by
  have hh := h.heardFrame
  rcases frameReceived_cases s fr with ⟨-, e⟩ | ⟨hl, -, e⟩ | ⟨-, -, e⟩ | ⟨-, -, e⟩ | ⟨hl, b, -, e⟩ |
    ⟨-, i, b, -, e⟩ | ⟨-, b, -, e⟩ <;> rw [e]
  · exact hh
  · exact hh.answerRecall hl
  · exact hh.report _ _
  · exact hh.report _ _
  · exact hh.recallResponse hl rfl b
  · exact hh.peerApply i b
  · exact hh.peerReplace b

/-- Completing a frame needs nothing of the buffer it empties. -/
theorem Inv.completeFrame {s : State} (h : Inv s.clearAsm) (f : List Byte) : Inv (s.completeFrame f) := by
  rcases completeFrame_cases s f with ⟨_, -, e⟩ | ⟨fr, -, e⟩ <;> rw [e]
  · exact (h.report _ _).countFailure
  · exact h.frameReceived fr

/-- A header announces at least its own byte and the checksum (R93, R99). -/
theorem two_le_announcedLen_append (buf : List Byte) (b : Byte) : 2 ≤ announcedLen (buf ++ [b]) := by
  cases buf <;> simp [announcedLen]

/-- The announced length is the header's, whatever follows. -/
theorem announcedLen_append {buf : List Byte} (h : buf ≠ []) (b : Byte) :
    announcedLen (buf ++ [b]) = announcedLen buf := by
  cases buf with
  | nil => exact absurd rfl h
  | cons x xs => rfl

/-- A byte that completes no frame leaves the buffer incomplete (R31, R141). -/
theorem length_append_lt_announcedLen {buf : List Byte} {b : Byte} (h : buf ≠ [] → buf.length < announcedLen buf)
    (hne : (buf ++ [b]).length ≠ announcedLen (buf ++ [b])) : (buf ++ [b]).length < announcedLen (buf ++ [b]) := by
  by_cases hb : buf = []
  · have := two_le_announcedLen_append buf b
    simp only [hb, List.nil_append, List.length_singleton] at this ⊢
    omega
  · have := h hb
    rw [announcedLen_append hb, List.length_append, List.length_singleton] at *
    omega

theorem Inv.acceptByte {s : State} (h : Inv s) (hl : s.lstate ≠ .failed) (b : Byte) : Inv (s.acceptByte b) := by
  rcases acceptByte_cases s b with ⟨-, e⟩ | ⟨hne, e⟩ <;> rw [e]
  · exact h.clearAsm.completeFrame _
  · exact { h with
      asmPartial := fun _ => length_append_lt_announcedLen h.asmPartial hne
      asmTimer := fun _ => rfl
      failedEmpty := fun hf => absurd hf hl }

theorem Inv.dropPartial {s : State} (h : Inv s) : Inv s.dropPartial := (h.report _ _).countFailure.clearAsm

/-! ## TICK -/

theorem Inv.tickCounters {s : State} (h : Inv s) : Inv s.tickCounters := { h with }

theorem Inv.tickLinkTimeout {s : State} (h : Inv s) : Inv s.tickLinkTimeout := by
  rcases tickLinkTimeout_cases s with ⟨-, e⟩ | ⟨-, e⟩ | ⟨hne, e⟩ <;> rw [e]
  · exact h
  · exact (h.report _ _).countFailure.clearAsm
  · exact { h with asmTimer := fun he => absurd he hne }

theorem Inv.tickPoweredUp {s : State} (h : Inv s) (hl : s.lstate = .poweredUp) : Inv s.tickPoweredUp := by
  rcases tickPoweredUp_cases s with ⟨hr, e⟩ | ⟨-, e⟩
  · have hc : Inv { s with puCnt := inc s.puCnt } :=
      { h with
        puOutside := fun hne => absurd hl hne
        puStation := fun hs => absurd (hr.symm.trans hs) nofun }
    rcases e with e | e <;> rw [e]
    · exact hc
    · exact hc.sendRecall hl
  · rcases e with e | e <;> rw [e]
    · exact h
    · exact h.sendRecall hl

/-- A retry below the bound may be counted (R241). -/
theorem toNat_add_one_le {a b : BitVec 8} (h : a.toNat < b.toNat) : (a + 1).toNat ≤ b.toNat := by bv_omega

theorem Inv.tickAwaiting {s : State} (h : Inv s) (hl : s.lstate = .awaitingRecallResponse) : Inv s.tickAwaiting := by
  have hc : Inv { s with respCnt := inc s.respCnt } := { h with respOutside := fun hne => absurd hl hne }
  have hrep : Inv s.reportResponseTimeout := hc.report _ _
  have hlrep : s.reportResponseTimeout.lstate = .awaitingRecallResponse := by simp [State.reportResponseTimeout, hl]
  rcases tickAwaiting_cases s with e | ⟨hlt, e⟩ | e <;> rw [e]
  · exact hc
  · refine Inv.enqueueRecall ?_ (by simp [hlrep])
    exact { hrep with
      respOutside := fun _ => rfl
      retryBound := toNat_add_one_le hlt }
  · exact hrep.enterFailed (by simp)

theorem Inv.tickActive {s : State} (h : Inv s) : Inv s.tickActive := by
  rcases tickActive_cases s with e | e <;> rw [e]
  · exact h
  · exact (h.report _ _).enterFailed (by simp)

theorem Inv.tickLink {s : State} (h : Inv s) : Inv s.tickLink := by
  unfold State.tickLink
  split
  · exact h.tickPoweredUp (by assumption)
  · exact h.tickAwaiting (by assumption)
  · exact h.tickActive
  · exact h

/-- Without a valid frame there is no health (R183). -/
theorem heard_of_health {heard : Bool} {idle : Counter} {pollto : Ticks} (h : health heard idle pollto = true) :
    heard = true := by
  simp only [health, Bool.and_eq_true] at h
  exact h.left

theorem Inv.tickHealth {s : State} (h : Inv s) : Inv s.tickHealth := by
  have hv : ZeroAbove s.len s.v := h.vAbove
  unfold State.tickHealth
  exact { h with
    vAbove := hv.setpt _ (by decide) (healthPoint_le_len s) (by decide)
    healthHeard := fun hp => heard_of_health (by simpa using hp) }

theorem Inv.tickKeepAlive {s : State} (h : Inv s) : Inv s.tickKeepAlive := by
  unfold State.tickKeepAlive
  split
  · next hk =>
    simp only [State.keepAliveDue, Bool.and_eq_true, decide_eq_true_eq] at hk
    obtain ⟨⟨⟨hl, -⟩, -⟩, -⟩ := hk
    exact h.enqueueRecall (by simp [hl])
  · exact h

theorem Inv.tickStages {s : State} (h : Inv s) : Inv s.tickStages :=
  h.tickCounters.tickLinkTimeout.tickLink.tickHealth.emitIfActive.tickKeepAlive

/-! ## The control events -/

/-- A value CFG accepts leaves a legal unit count (R42, R280). -/
theorem write_euc_le {c : ConfigRegs} (hc : c.euc.toNat ≤ 6) {reg : BitVec 4} {value : BitVec 24}
    (hmax : value.toNat ≤ (cfgMax reg).toNat) : (c.write reg value).euc.toNat ≤ 6 := by
  unfold ConfigRegs.write
  split
  · next h0 =>
    have : value.toNat ≤ 6 := by simpa [cfgMax, h0] using hmax
    simp only [BitVec.toNat_setWidth]
    omega
  all_goals exact hc

/-- RESET latches the session and clears V above the new length, whatever the link did (R281). -/
theorem Inv.linkReset {s : State} (h : Inv s) : Inv s.linkReset := by
  refine Inv.report ?_ _ _
  exact { h with
    sessEuc := h.cfgEuc
    vAbove := (zeroAbove_and_pointsTo _ s.v).setpt false (by decide) (healthPoint_le_len s.latchSession) (by decide)
    rAbove := zeroAbove_zero _
    asmPartial := fun hne => absurd rfl hne
    asmTimer := fun _ => rfl
    failedEmpty := nofun
    puOutside := fun _ => rfl
    puStation := fun _ => rfl
    respOutside := fun _ => rfl
    retryBound := Nat.zero_le _
    causeInFailed := by simp
    activeHeard := nofun
    healthHeard := by simp
    txqBound := fun _ _ => Nat.zero_le _
    txqValid := nofun }

/-- TXQ loses its head. -/
theorem Inv.tookFrame {s : State} (h : Inv s) {f : List Byte} {rest : List (List Byte)} (hq : s.txq = f :: rest) :
    Inv { s with out := some (.frame f), txq := rest } :=
  { h with
    failedEmpty := fun hl => absurd (h.failedEmpty hl).2 (by simp [hq])
    txqBound := fun d hd => by
      have := h.txqBound d hd
      rw [hq, List.length_cons] at this
      exact Nat.le_of_succ_le this
    txqValid := fun g hg => h.txqValid g (by simp [hq, show g ∈ rest from hg]) }

/-- RPTQ loses its head. -/
theorem Inv.tookReport {s : State} (h : Inv s) {w : ReportWord} {rest : List ReportWord} (hq : s.rptq = w :: rest) :
    Inv { s with out := some (.report w), rptq := rest } :=
  { h with
    rptqBound := fun d hd => by
      have := h.rptqBound d hd
      rw [hq, List.length_cons] at this
      exact Nat.le_of_succ_le this
    rptqCodes := fun x hx => h.rptqCodes x (by simp [hq, show x ∈ rest from hx]) }

/-! ## Every instruction, every step -/

/-- Every instruction keeps the invariant. -/
theorem Inv.exec {i : Instr} {s t : State} (h : Inv s) (he : exec i s = .next t) : Inv t := by
  have hv : ZeroAbove s.len s.v := h.vAbove
  cases effect_of_exec he with
  | nothing => exact h
  | reported _ _ code info => exact h.report code info
  | fault k => exact (h.report _ _).countFailure
  | byte sop b hl => exact h.acceptByte hl b
  | restart b hl => exact h.dropPartial.acceptByte (by simpa using hl) b
  | frame _ _ f => exact h.clearAsm.completeFrame f
  | sentRecall hl => exact h.sendRecall hl
  | fail _ _ cause hc => exact h.enterFailed hc
  | tick => exact h.tickStages
  | point b i v changed hap =>
    have hp : Inv { s with v := v } :=
      { h with
        vAbove := hv.applyPoint h.len_le hap
        healthHeard := fun h16 => h.healthHeard (applyPoint_health hap ▸ h16) }
    exact (hp.report _ _).emitIfActive
  | staged => exact { h with }
  | loaded n =>
    refine Inv.emitIfActive ?_
    exact { h with
      vAbove := hv.replaceVec _
      healthHeard := by simpa using h.healthHeard }
  | configured reg value hmax => exact { h with cfgEuc := write_euc_le h.cfgEuc hmax }
  | reset => exact h.linkReset
  | noOutput => exact { h with }
  | tookFrame f rest hq => exact h.tookFrame hq
  | tookReport w rest hq => exact h.tookReport hq

/-- The fetch touches nothing the invariant speaks of. -/
theorem Inv.fetchEvent {s s1 : State} {w : EventWord} (h : Inv s) (hf : s.fetchEvent = some (w, s1)) : Inv s1 := by
  unfold State.fetchEvent at hf
  split at hf <;> cases hf
  exact { h with }

/-- A step waits, runs the instruction of the word it fetched, or reports a rejected word (R291). -/
theorem step_cases {s t : State} (h : step s = .next t) :
    (s.fetchEvent = none ∧ t = s) ∨
    ∃ w s1, s.fetchEvent = some (w, s1) ∧
      ((∃ i, decodeEvent w = .ok i ∧ exec i s1 = .next t) ∨
        ∃ e, decodeEvent w = .error e ∧ t = s1.rejectEvent w e) := by
  unfold step at h
  split at h
  · next hf => cases h; exact .inl ⟨hf, rfl⟩
  · next w s1 hf =>
    refine .inr ⟨w, s1, hf, ?_⟩
    split at h
    · next i hd => exact .inl ⟨i, hd, h⟩
    · next e hd => cases h; exact .inr ⟨e, hd, rfl⟩

/-- Settles O48: the fetch, every instruction and the report of a rejected word keep the invariant. -/
theorem stepKeepsTheStateInvariant : Obligations.StepKeepsTheStateInvariant := by
  intro s t h hstep
  rcases step_cases hstep with ⟨-, rfl⟩ | ⟨w, s1, hf, ⟨i, -, hi⟩ | ⟨e, -, rfl⟩⟩
  · exact h
  · exact (h.fetchEvent hf).exec hi
  · exact (h.fetchEvent hf).report _ _

end Sys2Proof.Machine
end

section
/-! What no instruction forgets (R30, R40, R41) and what only one of them writes (R47, R35, R280): the relation `Extends`,
kept by every shared operation but RESET. -/

namespace Sys2Proof.Machine

/-- t is s with more recorded: no report lost, no failure uncounted, the configuration, the staging vector, the parameters
and the pending words as they were. -/
structure Extends (s t : State) : Prop where
  params : t.params = s.params
  input : t.input = s.input
  stg : t.stg = s.stg
  cfg : t.cfg = s.cfg
  sess : t.sess = s.sess
  rptOvf : s.rptOvf = true → t.rptOvf = true
  failCnt : s.failCnt.toNat ≤ t.failCnt.toNat
  rptq : s.rptq <+: t.rptq

theorem Extends.refl (s : State) : Extends s s := ⟨rfl, rfl, rfl, rfl, rfl, id, le_rfl, List.prefix_refl _⟩

section

variable {s t : State} (h : Extends s t)
include h

theorem Extends.report (c : ReportCode) (x : Info) : Extends s (t.report c x) := by
  rcases report_cases t c x with ⟨-, e⟩ | ⟨-, e⟩ <;> rw [e]
  · exact { h with rptq := h.rptq.trans (List.prefix_append _ _) }
  · exact { h with rptOvf := fun _ => rfl }

theorem Extends.countFailure : Extends s t.countFailure :=
  { h with
    failCnt := by
      have hle := h.failCnt
      have hlt := s.failCnt.isLt
      rw [countFailure_failCnt, inc_toNat]
      omega }

theorem Extends.clearAsm : Extends s t.clearAsm := { h with }

theorem Extends.heardFrame : Extends s t.heardFrame := { h with }

theorem Extends.enqueueRecall : Extends s t.enqueueRecall := by
  unfold State.enqueueRecall
  rcases enqueueTx_cases t (frameBytes .msgRecall []) with ⟨-, e⟩ | ⟨-, e⟩ <;> rw [e]
  · exact { h with }
  · exact (h.report _ _).countFailure

theorem Extends.emitUpdate (p : Nat × Bool) : Extends s (t.emitUpdate p) := by
  rcases emitUpdate_cases t p with ⟨-, e⟩ | ⟨-, e⟩ <;> rw [e]
  · exact { h with }
  · exact (h.report _ _).countFailure

theorem Extends.emitIfActive : Extends s t.emitIfActive := by
  by_cases hl : t.lstate = .active
  · rw [emitIfActive_of_active hl]
    exact emitDiff_induction t h fun _ i b hu _ => hu.emitUpdate (i, b)
  · rwa [emitIfActive_of_not_active hl]

theorem Extends.answerRecall : Extends s t.answerRecall := by
  rcases answerRecall_cases t with ⟨-, e⟩ | ⟨-, e⟩ <;> rw [e]
  · exact { h with }
  · exact (h.report _ _).countFailure

theorem Extends.sendRecall : Extends s t.sendRecall := by
  refine Extends.report ?_ _ _
  exact { h.enqueueRecall with }

theorem Extends.enterFailed (cause : FCause) : Extends s (t.enterFailed cause) := by
  refine Extends.report ?_ _ _
  exact { h with }

theorem Extends.peerReplace (b : VecReg) : Extends s (t.peerReplace b) := by
  refine reportChanges_induction _ _ ?_ fun _ c x hu => hu.report c x
  exact { h with }

theorem Extends.recallResponse (b : VecReg) : Extends s (t.recallResponse b) := by
  refine Extends.report ?_ _ _
  exact { h.peerReplace b with }

theorem Extends.peerApply (i : Nat) (b : Bool) : Extends s (t.peerApply i b) := by
  have written : Extends s { t with v := setpt t.v i b, r := setpt t.r i b } := { h with }
  rcases peerApply_cases t i b with ⟨-, e⟩ | ⟨-, -, -, e⟩ | ⟨-, -, -, -, e⟩ | ⟨-, -, -, -, e⟩ <;> rw [e]
  · exact h.report _ _
  · exact h
  · exact written
  · exact written.report _ _

theorem Extends.frameReceived (fr : Frame) : Extends s (t.frameReceived fr) := by
  have hh := h.heardFrame
  rcases frameReceived_cases t fr with ⟨-, e⟩ | ⟨-, -, e⟩ | ⟨-, -, e⟩ | ⟨-, -, e⟩ | ⟨-, b, -, e⟩ |
    ⟨-, i, b, -, e⟩ | ⟨-, b, -, e⟩ <;> rw [e]
  · exact hh
  · exact hh.answerRecall
  · exact hh.report _ _
  · exact hh.report _ _
  · exact hh.recallResponse b
  · exact hh.peerApply i b
  · exact hh.peerReplace b

theorem Extends.completeFrame (f : List Byte) : Extends s (t.completeFrame f) := by
  rcases completeFrame_cases t f with ⟨_, -, e⟩ | ⟨fr, -, e⟩ <;> rw [e]
  · exact (h.clearAsm.report _ _).countFailure
  · exact h.clearAsm.frameReceived fr

theorem Extends.acceptByte (b : Byte) : Extends s (t.acceptByte b) := by
  rcases acceptByte_cases t b with ⟨-, e⟩ | ⟨-, e⟩ <;> rw [e]
  · exact h.completeFrame _
  · exact { h with }

theorem Extends.dropPartial : Extends s t.dropPartial := (h.report _ _).countFailure.clearAsm

theorem Extends.tickCounters : Extends s t.tickCounters := { h with }

theorem Extends.tickLinkTimeout : Extends s t.tickLinkTimeout := by
  rcases tickLinkTimeout_cases t with ⟨-, e⟩ | ⟨-, e⟩ | ⟨-, e⟩ <;> rw [e]
  · exact h
  · exact (h.report _ _).countFailure.clearAsm
  · exact { h with }

theorem Extends.tickPoweredUp : Extends s t.tickPoweredUp := by
  have counted : Extends s { t with puCnt := inc t.puCnt } := { h with }
  rcases tickPoweredUp_cases t with ⟨-, e | e⟩ | ⟨-, e | e⟩ <;> rw [e]
  · exact counted
  · exact counted.sendRecall
  · exact h
  · exact h.sendRecall

theorem Extends.tickAwaiting : Extends s t.tickAwaiting := by
  have counted : Extends s { t with respCnt := inc t.respCnt } := { h with }
  have reported : Extends s t.reportResponseTimeout := counted.report _ _
  rcases tickAwaiting_cases t with e | ⟨-, e⟩ | e <;> rw [e]
  · exact counted
  · refine Extends.enqueueRecall ?_
    exact { reported with }
  · exact reported.enterFailed _

theorem Extends.tickActive : Extends s t.tickActive := by
  rcases tickActive_cases t with e | e <;> rw [e]
  · exact h
  · exact (h.report _ _).enterFailed _

theorem Extends.tickLink : Extends s t.tickLink := by
  unfold State.tickLink
  split
  · exact h.tickPoweredUp
  · exact h.tickAwaiting
  · exact h.tickActive
  · exact h

theorem Extends.tickHealth : Extends s t.tickHealth := { h with }

theorem Extends.tickKeepAlive : Extends s t.tickKeepAlive := by
  rcases tickKeepAlive_cases t with e | e <;> rw [e]
  · exact h
  · exact h.enqueueRecall

theorem Extends.tickStages : Extends s t.tickStages :=
  h.tickCounters.tickLinkTimeout.tickLink.tickHealth.emitIfActive.tickKeepAlive

end

/-- Every instruction extends its state, but for what CFG, WRSTG, RESET and RPTTAKE are for. -/
theorem extends_or_writes_of_exec {i : Instr} {s t : State} (he : exec i s = .next t) :
    (i ≠ .reset ∧ Extends s t) ∨
    (∃ reg value, i = .cfg reg value ∧ t = { s with cfg := s.cfg.write reg value }) ∨
    (∃ k b, i = .wrstg k b ∧ t = { s with stg := setVbyte s.stg k.toNat b }) ∨
    (i = .reset ∧ t = s.linkReset) ∨
    (i = .rpttake ∧ ∃ w rest, t = { s with out := some (.report w), rptq := rest }) := by
  have h := Extends.refl s
  cases effect_of_exec he with
  | nothing _ hi => exact .inl ⟨hi, h⟩
  | reported _ hi code info => exact .inl ⟨hi, h.report code info⟩
  | fault k => exact .inl ⟨nofun, (h.report _ _).countFailure⟩
  | byte sop b => exact .inl ⟨nofun, h.acceptByte b⟩
  | restart b => exact .inl ⟨nofun, h.dropPartial.acceptByte b⟩
  | frame _ hi f => exact .inl ⟨hi, h.completeFrame f⟩
  | sentRecall => exact .inl ⟨nofun, h.sendRecall⟩
  | fail _ hi cause => exact .inl ⟨hi, h.enterFailed cause⟩
  | tick => exact .inl ⟨nofun, h.tickStages⟩
  | point b i v changed =>
    have written : Extends s { s with v := v } := { h with }
    exact .inl ⟨nofun, (written.report _ _).emitIfActive⟩
  | staged k b => exact .inr (.inr (.inl ⟨k, b, rfl, rfl⟩))
  | loaded n =>
    refine .inl ⟨nofun, Extends.emitIfActive ?_⟩
    exact { h with }
  | configured reg value => exact .inr (.inl ⟨reg, value, rfl, rfl⟩)
  | reset => exact .inr (.inr (.inr (.inl ⟨rfl, rfl⟩)))
  | noOutput _ hi => exact .inl ⟨hi, { h with }⟩
  | tookFrame => exact .inl ⟨nofun, { h with }⟩
  | tookReport w rest => exact .inr (.inr (.inr (.inr ⟨rfl, w, rest, rfl⟩)))

/-- RESET reports and forgets nothing (R281). -/
theorem linkReset_remembers (s : State) :
    (s.rptOvf = true → s.linkReset.rptOvf = true) ∧ s.rptq <+: s.linkReset.rptq := by
  obtain ⟨u, c, x, e, hovf, hq⟩ :
      ∃ u c x, s.linkReset = State.report u c x ∧ u.rptOvf = s.rptOvf ∧ u.rptq = s.rptq :=
    ⟨_, _, _, rfl, rfl, rfl⟩
  have h := (Extends.refl u).report c x
  rw [e, ← hovf, ← hq]
  exact ⟨h.rptOvf, h.rptq⟩

/-- Settles O57: every instruction extends what is recorded, RPTTAKE all but its word, and RESET clears none of it. -/
theorem reportsAndFailuresAreNeverForgotten : Obligations.ReportsAndFailuresAreNeverForgotten := by
  intro i s t he
  rcases extends_or_writes_of_exec he with ⟨-, h⟩ | ⟨_, _, -, rfl⟩ | ⟨_, _, -, rfl⟩ | ⟨-, rfl⟩ | ⟨rfl, _, _, rfl⟩
  · exact ⟨h.rptOvf, h.failCnt, fun _ => h.rptq⟩
  · exact ⟨id, le_rfl, fun _ => List.prefix_refl _⟩
  · exact ⟨id, le_rfl, fun _ => List.prefix_refl _⟩
  · obtain ⟨hovf, hq⟩ := linkReset_remembers s
    exact ⟨hovf, (congrArg BitVec.toNat (linkReset_failCnt s)).ge, fun _ => hq⟩
  · exact ⟨id, le_rfl, fun hne => absurd rfl hne⟩

end Sys2Proof.Machine
end

section
/-! No instruction but RESET and CFG reads the CFG registers (R47, R355): every shared operation commutes with replacing
them. -/

namespace Sys2Proof.Machine

/-- The state with other CFG registers. -/
def State.withCfg (s : State) (c : ConfigRegs) : State := { s with cfg := c }

section

variable (s : State) (c : ConfigRegs)

theorem report_withCfg (code : ReportCode) (x : Info) : (s.withCfg c).report code x = (s.report code x).withCfg c := by
  unfold State.report
  rw [apply_ite (State.withCfg · c)]
  rfl

theorem enqueueTx_withCfg (f : List Byte) :
    (s.withCfg c).enqueueTx f = ((s.enqueueTx f).1.withCfg c, (s.enqueueTx f).2) := by
  change _ = Prod.map (State.withCfg · c) id (s.enqueueTx f)
  unfold State.enqueueTx
  rw [report_withCfg, apply_ite (Prod.map (State.withCfg · c) id)]
  rfl

theorem emitUpdate_withCfg (p : Nat × Bool) : (s.withCfg c).emitUpdate p = (s.emitUpdate p).withCfg c := by
  unfold State.emitUpdate
  rw [enqueueTx_withCfg, apply_ite (State.withCfg · c)]
  rfl

theorem emitDiff_withCfg : (s.withCfg c).emitDiff = s.emitDiff.withCfg c :=
  List.foldl_hom (State.withCfg · c) fun t p => emitUpdate_withCfg t c p

theorem emitIfActive_withCfg : (s.withCfg c).emitIfActive = s.emitIfActive.withCfg c := by
  unfold State.emitIfActive
  rw [emitDiff_withCfg, apply_ite (State.withCfg · c)]
  rfl

theorem enqueueRecall_withCfg : (s.withCfg c).enqueueRecall = s.enqueueRecall.withCfg c := by
  rw [State.enqueueRecall, enqueueTx_withCfg, State.enqueueRecall]

theorem sendRecall_withCfg : (s.withCfg c).sendRecall = s.sendRecall.withCfg c := by
  unfold State.sendRecall
  rw [enqueueRecall_withCfg, ← report_withCfg]
  rfl

theorem enterFailed_withCfg (cause : FCause) : (s.withCfg c).enterFailed cause = (s.enterFailed cause).withCfg c := by
  unfold State.enterFailed
  rw [← report_withCfg]
  rfl

theorem failUnlessFailed_withCfg (cause : FCause) :
    (s.withCfg c).failUnlessFailed cause = (s.failUnlessFailed cause).withCfg c := by
  unfold State.failUnlessFailed
  rw [enterFailed_withCfg, apply_ite (State.withCfg · c)]
  rfl

theorem answerRecall_withCfg : (s.withCfg c).answerRecall = s.answerRecall.withCfg c := by
  unfold State.answerRecall
  rw [enqueueTx_withCfg, apply_ite (State.withCfg · c)]
  rfl

theorem reportChanges_withCfg (ds : List (Nat × Bool)) :
    (s.withCfg c).reportChanges ds = (s.reportChanges ds).withCfg c :=
  List.foldl_hom (State.withCfg · c) fun t p => report_withCfg t c .bitChanged (pointInfo p.1 p.2)

theorem peerReplace_withCfg (b : VecReg) : (s.withCfg c).peerReplace b = (s.peerReplace b).withCfg c := by
  unfold State.peerReplace
  rw [← reportChanges_withCfg]
  rfl

theorem recallResponse_withCfg (b : VecReg) : (s.withCfg c).recallResponse b = (s.recallResponse b).withCfg c := by
  unfold State.recallResponse
  rw [peerReplace_withCfg, ← report_withCfg]
  rfl

theorem peerApply_withCfg (i : Nat) (b : Bool) : (s.withCfg c).peerApply i b = (s.peerApply i b).withCfg c := by
  unfold State.peerApply
  have hap : applyPoint (s.withCfg c).v i b (s.withCfg c).len = applyPoint s.v i b s.len := rfl
  rw [hap]
  split
  · exact report_withCfg s c _ _
  · dsimp only
    split
    · rw [← report_withCfg]
      rfl
    · rfl

theorem dispatchFrame_withCfg (fr : Frame) : (s.withCfg c).dispatchFrame fr = (s.dispatchFrame fr).withCfg c := by
  have hl : (s.withCfg c).lstate = s.lstate := rfl
  unfold State.dispatchFrame
  rw [hl]
  split
  · rfl
  · exact answerRecall_withCfg s c
  · exact report_withCfg s c _ _
  · exact report_withCfg s c _ _
  · exact report_withCfg s c _ _
  · exact recallResponse_withCfg s c _
  · exact peerApply_withCfg s c _ _
  · exact peerReplace_withCfg s c _

theorem completeFrame_withCfg (f : List Byte) : (s.withCfg c).completeFrame f = (s.completeFrame f).withCfg c := by
  have hd : codecDecode f (s.withCfg c).sess.euc.toNat = codecDecode f s.sess.euc.toNat := rfl
  unfold State.completeFrame
  rw [hd]
  split
  · exact congrArg State.countFailure (report_withCfg s.clearAsm c _ _)
  · exact dispatchFrame_withCfg s.clearAsm.heardFrame c _

theorem receiveWhole_withCfg (f : List Byte) : (s.withCfg c).receiveWhole f = (s.receiveWhole f).withCfg c := by
  unfold State.receiveWhole
  rw [completeFrame_withCfg, apply_ite (State.withCfg · c)]
  rfl

theorem acceptByte_withCfg (b : Byte) : (s.withCfg c).acceptByte b = (s.acceptByte b).withCfg c := by
  unfold State.acceptByte
  rw [apply_ite (State.withCfg · c), ← completeFrame_withCfg]
  rfl

theorem dropPartial_withCfg : (s.withCfg c).dropPartial = s.dropPartial.withCfg c := by
  unfold State.dropPartial
  rw [report_withCfg]
  rfl

/-! ## TICK -/

theorem tickLinkTimeout_withCfg : (s.withCfg c).tickLinkTimeout = s.tickLinkTimeout.withCfg c := by
  unfold State.tickLinkTimeout
  rw [report_withCfg, apply_ite (State.withCfg · c), apply_ite (State.withCfg · c)]
  rfl

theorem tickPoweredUp_withCfg : (s.withCfg c).tickPoweredUp = s.tickPoweredUp.withCfg c := by
  have hr : (s.withCfg c).sess.role = s.sess.role := rfl
  unfold State.tickPoweredUp
  rw [hr]
  split
  · rw [apply_ite (State.withCfg · c), ← sendRecall_withCfg]
    rfl
  · rw [apply_ite (State.withCfg · c), ← sendRecall_withCfg]
    rfl

theorem reportResponseTimeout_withCfg :
    (s.withCfg c).reportResponseTimeout = s.reportResponseTimeout.withCfg c :=
  report_withCfg { s with respCnt := inc s.respCnt } c _ _

theorem tickAwaiting_withCfg : (s.withCfg c).tickAwaiting = s.tickAwaiting.withCfg c := by
  have h (t : State) : t.tickAwaiting =
      if expired (inc t.respCnt) t.sess.respto then
        if t.reportResponseTimeout.retryCnt.toNat < t.reportResponseTimeout.sess.retry.toNat then
          State.enqueueRecall
            { t.reportResponseTimeout with retryCnt := t.reportResponseTimeout.retryCnt + 1, respCnt := 0 }
        else t.reportResponseTimeout.enterFailed .responseTimeout
      else { t with respCnt := inc t.respCnt } := rfl
  rw [h, h, reportResponseTimeout_withCfg, apply_ite (State.withCfg · c), apply_ite (State.withCfg · c),
    ← enqueueRecall_withCfg, ← enterFailed_withCfg]
  rfl

theorem tickActive_withCfg : (s.withCfg c).tickActive = s.tickActive.withCfg c := by
  unfold State.tickActive
  rw [report_withCfg, enterFailed_withCfg, apply_ite (State.withCfg · c)]
  rfl

theorem tickLink_withCfg : (s.withCfg c).tickLink = s.tickLink.withCfg c := by
  have hl : (s.withCfg c).lstate = s.lstate := rfl
  unfold State.tickLink
  rw [hl]
  split
  · exact tickPoweredUp_withCfg s c
  · exact tickAwaiting_withCfg s c
  · exact tickActive_withCfg s c
  · rfl

theorem tickKeepAlive_withCfg : (s.withCfg c).tickKeepAlive = s.tickKeepAlive.withCfg c := by
  unfold State.tickKeepAlive
  rw [enqueueRecall_withCfg, apply_ite (State.withCfg · c)]
  rfl

theorem tickStages_withCfg : (s.withCfg c).tickStages = s.tickStages.withCfg c := by
  have hcount : (s.withCfg c).tickCounters = s.tickCounters.withCfg c := rfl
  have hhealth (t : State) : (t.withCfg c).tickHealth = t.tickHealth.withCfg c := rfl
  simp only [State.tickStages, hcount, hhealth, tickLinkTimeout_withCfg, tickLink_withCfg, emitIfActive_withCfg,
    tickKeepAlive_withCfg]

end

/-! ## Every instruction -/

/-- The outcome with other CFG registers in its next state. -/
def outcomeWithCfg (c : ConfigRegs) : Host.Outcome State Fault Refusal → Host.Outcome State Fault Refusal
  | .next t => .next (t.withCfg c)
  | .fault r => .fault r
  | .refused r => .refused r

section

variable (s : State) (c : ConfigRegs)

theorem exec_rxb_withCfg (sop : Bool) (b : Byte) :
    exec (.rxb sop b) (s.withCfg c) = outcomeWithCfg c (exec (.rxb sop b) s) := by
  simp only [exec, execRxb]
  rw [dropPartial_withCfg, acceptByte_withCfg, acceptByte_withCfg, apply_ite (outcomeWithCfg c),
    apply_ite (outcomeWithCfg c)]
  rfl

theorem exec_lidle_withCfg : exec .lidle (s.withCfg c) = outcomeWithCfg c (exec .lidle s) := by
  simp only [exec, execLidle, outcomeWithCfg]
  rw [sendRecall_withCfg, apply_ite (State.withCfg · c)]
  rfl

theorem exec_setbit_withCfg (b : Bool) (i : BitVec 8) :
    exec (.setbit b i) (s.withCfg c) = outcomeWithCfg c (exec (.setbit b i) s) := by
  have hap : applyPoint (s.withCfg c).v i.toNat b (s.withCfg c).len = applyPoint s.v i.toNat b s.len := rfl
  simp only [exec, execSetbit]
  rw [hap]
  split
  · exact congrArg Host.Outcome.next (report_withCfg s c _ _)
  · refine congrArg Host.Outcome.next ?_
    rw [← emitIfActive_withCfg, ← report_withCfg]
    rfl

theorem exec_loadall_withCfg (n : BitVec 5) :
    exec (.loadall n) (s.withCfg c) = outcomeWithCfg c (exec (.loadall n) s) := by
  simp only [exec, execLoadall]
  rw [report_withCfg, apply_ite (outcomeWithCfg c), outcomeWithCfg, outcomeWithCfg, ← emitIfActive_withCfg]
  rfl

theorem exec_txtake_withCfg : exec .txtake (s.withCfg c) = outcomeWithCfg c (exec .txtake s) := by
  have hq : (s.withCfg c).txq = s.txq := rfl
  simp only [exec, execTxtake]
  rw [hq]
  split
  · rfl
  · rw [apply_ite (outcomeWithCfg c)]
    rfl

theorem exec_rpttake_withCfg : exec .rpttake (s.withCfg c) = outcomeWithCfg c (exec .rpttake s) := by
  have hq : (s.withCfg c).rptq = s.rptq := rfl
  simp only [exec, execRpttake]
  rw [hq]
  split <;> rfl

/-- No instruction but RESET and CFG reads or writes the CFG registers. -/
theorem exec_withCfg {i : Instr} (hr : i ≠ .reset) (hc : ∀ reg value, i ≠ .cfg reg value) :
    exec i (s.withCfg c) = outcomeWithCfg c (exec i s) := by
  cases i with
  | rxb sop b => exact exec_rxb_withCfg s c sop b
  | rxf k =>
    exact congrArg (fun t => Host.Outcome.next (State.countFailure t)) (report_withCfg s c _ _)
  | lidle => exact exec_lidle_withCfg s c
  | ldown => exact congrArg Host.Outcome.next (failUnlessFailed_withCfg s c _)
  | tick => exact congrArg Host.Outcome.next (tickStages_withCfg s c)
  | setbit b i => exact exec_setbit_withCfg s c b i
  | wrstg => rfl
  | loadall n => exact exec_loadall_withCfg s c n
  | cfg reg value => exact absurd rfl (hc reg value)
  | reset => exact absurd rfl hr
  | close => exact congrArg Host.Outcome.next (failUnlessFailed_withCfg s c _)
  | txtake => exact exec_txtake_withCfg s c
  | rpttake => exact exec_rpttake_withCfg s c
  | reservedOp0 => exact congrArg Host.Outcome.next (report_withCfg s c _ _)
  | reservedOpE => exact congrArg Host.Outcome.next (report_withCfg s c _ _)
  | reservedOpF => exact congrArg Host.Outcome.next (report_withCfg s c _ _)
  | recallFrame => exact congrArg Host.Outcome.next (receiveWhole_withCfg s c _)
  | updateFrame => exact congrArg Host.Outcome.next (receiveWhole_withCfg s c _)
  | allFrame => exact congrArg Host.Outcome.next (receiveWhole_withCfg s c _)

end

/-- Settles O54: what is written by the extension of the state, and that nothing else is read by commuting with other
CFG registers. -/
theorem configurationTakesEffectOnlyAtReset : Obligations.ConfigurationTakesEffectOnlyAtReset := by
  refine ⟨fun p => rfl, fun i s t he => ?_⟩
  have unread : i ≠ .reset → (∀ reg value, i ≠ .cfg reg value) → ∀ c,
      exec i (s.withCfg c) = .next (t.withCfg c) := by
    intro hr hc c
    rw [exec_withCfg s c hr hc, he, outcomeWithCfg]
  rcases extends_or_writes_of_exec he with
    ⟨hi, h⟩ | ⟨reg, value, rfl, rfl⟩ | ⟨k, b, rfl, rfl⟩ | ⟨rfl, rfl⟩ | ⟨rfl, w, rest, rfl⟩
  · exact ⟨fun hr => absurd hr hi, fun _ => h.sess, fun _ => h.cfg, fun _ => h.stg, unread⟩
  · exact ⟨nofun, fun _ => rfl, fun hne => absurd rfl (hne reg value), fun _ => rfl, unread⟩
  · exact ⟨nofun, fun _ => rfl, fun _ => rfl, fun hne => absurd rfl (hne k b), unread⟩
  · exact ⟨fun _ => linkReset_sess s, fun hne => absurd rfl hne, fun _ => linkReset_cfg s, fun _ => linkReset_stg s,
      unread⟩
  · exact ⟨nofun, fun _ => rfl, fun _ => rfl, fun _ => rfl, unread⟩

end Sys2Proof.Machine
end

section
/-! Point 16 of V (R37), the state in Failed (R21, R221, R239), and the STATUS word (R51). -/

namespace Sys2Proof.Machine

/-! ## The health point -/

theorem peerApply_health (s : State) (i : Nat) (b : Bool) :
    pt (s.peerApply i b).v healthPoint = pt s.v healthPoint := by
  rcases peerApply_cases s i b with ⟨-, e⟩ | ⟨-, -, -, e⟩ | ⟨h1, -, h16, -, e⟩ | ⟨h1, -, h16, -, e⟩ <;> rw [e]
  · rw [report_v]
  · exact pt_setpt_of_ne_health s.v b h1 h16
  · rw [report_v]
    exact pt_setpt_of_ne_health s.v b h1 h16

/-- No valid frame writes the health point, whatever it says (R37). -/
theorem frameReceived_health (s : State) (fr : Frame) :
    pt (s.frameReceived fr).v healthPoint = pt s.v healthPoint := by
  rcases frameReceived_cases s fr with ⟨-, e⟩ | ⟨-, -, e⟩ | ⟨-, -, e⟩ | ⟨-, -, e⟩ | ⟨-, b, -, e⟩ |
    ⟨-, i, b, -, e⟩ | ⟨-, b, -, e⟩ <;> rw [e]
  case inr.inr.inr.inr.inr.inl => exact peerApply_health s.heardFrame i b
  all_goals simp

theorem completeFrame_health (s : State) (f : List Byte) :
    pt (s.completeFrame f).v healthPoint = pt s.v healthPoint := by
  rcases completeFrame_cases s f with ⟨_, -, e⟩ | ⟨fr, -, e⟩ <;> rw [e]
  · simp
  · exact frameReceived_health s.clearAsm fr

theorem acceptByte_health (s : State) (b : Byte) : pt (s.acceptByte b).v healthPoint = pt s.v healthPoint := by
  rcases acceptByte_cases s b with ⟨-, e⟩ | ⟨-, e⟩ <;> rw [e]
  exact completeFrame_health s _

/-- RESET clears the health point (R281). -/
theorem linkReset_health (s : State) : pt s.linkReset.v healthPoint = false := by
  simp [State.linkReset]

/-- Settles O53: of the shapes a next state takes, TICK's and RESET's alone touch the health point. -/
theorem onlyTickAndResetWriteTheHealthBit : Obligations.OnlyTickAndResetWriteTheHealthBit := by
  intro i s t he
  have never {i : Instr} (hi : i ≠ .reset) : i = .reset → pt t.v healthPoint = false := fun h => absurd h hi
  cases effect_of_exec he with
  | nothing _ hi => exact ⟨fun _ _ => rfl, never hi⟩
  | reported _ hi => exact ⟨fun _ _ => by rw [report_v], never hi⟩
  | fault => exact ⟨fun _ _ => by rw [countFailure_v, report_v], nofun⟩
  | byte sop b => exact ⟨fun _ _ => acceptByte_health s b, nofun⟩
  | restart b => exact ⟨fun _ _ => by rw [← dropPartial_v s]; exact acceptByte_health s.dropPartial b, nofun⟩
  | frame _ hi f => exact ⟨fun _ _ => completeFrame_health s f, never hi⟩
  | sentRecall => exact ⟨fun _ _ => by rw [sendRecall_v], nofun⟩
  | fail _ hi => exact ⟨fun _ _ => by rw [enterFailed_v], never hi⟩
  | tick => exact ⟨fun hne => absurd rfl hne, nofun⟩
  | point b i v changed hap =>
    refine ⟨fun _ _ => ?_, nofun⟩
    rw [emitIfActive_v, report_v]
    exact applyPoint_health hap
  | staged => exact ⟨fun _ _ => rfl, nofun⟩
  | loaded n =>
    refine ⟨fun _ _ => ?_, nofun⟩
    rw [emitIfActive_v]
    exact pt_replaceVec_health s.v _ s.len
  | configured => exact ⟨fun _ _ => rfl, nofun⟩
  | reset => exact ⟨fun _ hne => absurd rfl hne, fun _ => linkReset_health s⟩
  | noOutput _ hi => exact ⟨fun _ _ => rfl, never hi⟩
  | tookFrame => exact ⟨fun _ _ => rfl, nofun⟩
  | tookReport => exact ⟨fun _ _ => rfl, nofun⟩

/-! ## Failed -/

/-- In Failed, TICK counts, ages a partial frame and recomputes health, and nothing else (R236, R239). -/
theorem tickStages_of_failed {s : State} (hl : s.lstate = .failed) :
    s.tickStages = s.tickCounters.tickLinkTimeout.tickHealth := by
  have hl2 : s.tickCounters.tickLinkTimeout.lstate = .failed := by
    rcases tickLinkTimeout_cases s.tickCounters with ⟨-, e⟩ | ⟨-, e⟩ | ⟨-, e⟩ <;> rw [e]
    · exact hl
    · exact (report_lstate _ _ _).trans hl
    · exact hl
  have hl3 : s.tickCounters.tickLinkTimeout.tickLink = s.tickCounters.tickLinkTimeout := by
    rw [State.tickLink, hl2]
  have hl4 : s.tickCounters.tickLinkTimeout.tickHealth.lstate = .failed := hl2
  rw [State.tickStages, hl3, emitIfActive_of_not_active (by simp [hl4]), State.tickKeepAlive]
  simp [State.keepAliveDue, hl4]

/-- What Failed holds still: the state and its cause, what is known of the peer's view, the queue of frames; ASM does not
grow. -/
structure Held (s t : State) : Prop where
  lstate : t.lstate = s.lstate
  fcause : t.fcause = s.fcause
  priorFail : t.priorFail = s.priorFail
  r : t.r = s.r
  asm : t.asm.length ≤ s.asm.length
  txq : t.txq = s.txq

theorem Held.refl (s : State) : Held s s := ⟨rfl, rfl, rfl, rfl, le_rfl, rfl⟩

theorem Held.report {s t : State} (h : Held s t) (c : ReportCode) (x : Info) : Held s (t.report c x) := by
  rcases report_cases t c x with ⟨-, e⟩ | ⟨-, e⟩ <;> rw [e] <;> exact { h with }

theorem Held.countFailure {s t : State} (h : Held s t) : Held s t.countFailure := { h with }

theorem Held.clearAsm {s t : State} (h : Held s t) : Held s t.clearAsm := { h with asm := Nat.zero_le _ }

theorem held_tickStages {s : State} (hl : s.lstate = .failed) : Held s s.tickStages := by
  have hc : Held s s.tickCounters := { Held.refl s with }
  have ht : Held s s.tickCounters.tickLinkTimeout := by
    rcases tickLinkTimeout_cases s.tickCounters with ⟨-, e⟩ | ⟨-, e⟩ | ⟨-, e⟩ <;> rw [e]
    · exact hc
    · exact (hc.report _ _).countFailure.clearAsm
    · exact { hc with }
  rw [tickStages_of_failed hl]
  exact { ht with }

/-- In Failed, every instruction but RESET holds the state still, and TXTAKE alone may take a frame. -/
theorem held_or_tookFrame_of_failed {i : Instr} {s t : State} (hl : s.lstate = .failed) (hi : i ≠ .reset)
    (he : exec i s = .next t) :
    Held s t ∨ (i = .txtake ∧ ∃ f rest, s.txq = f :: rest ∧ t = { s with out := some (.frame f), txq := rest }) := by
  have h := Held.refl s
  have hna : s.lstate ≠ .active := by simp [hl]
  cases effect_of_exec he with
  | nothing => exact .inl h
  | reported => exact .inl (h.report _ _)
  | fault => exact .inl (h.report _ _).countFailure
  | byte _ _ hne => exact absurd hl hne
  | restart _ hne => exact absurd hl hne
  | frame _ _ _ hne => exact absurd hl hne
  | sentRecall hp => simp [hl] at hp
  | fail _ _ _ _ hne => exact absurd hl hne
  | tick => exact .inl (held_tickStages hl)
  | point b i v changed =>
    have written : Held s { s with v := v } := { h with }
    rw [emitIfActive_of_not_active (by simpa using hna)]
    exact .inl (written.report _ _)
  | staged => exact .inl { h with }
  | loaded =>
    rw [emitIfActive_of_not_active (by simpa using hna)]
    exact .inl { h with }
  | configured => exact .inl { h with }
  | reset => exact absurd rfl hi
  | noOutput => exact .inl { h with }
  | tookFrame f rest hq => exact .inr ⟨rfl, f, rest, hq, rfl⟩
  | tookReport => exact .inl { h with }

/-- Settles O55: Failed is held still, but for the frame TXTAKE takes. -/
theorem failedIsTerminalUntilReset : Obligations.FailedIsTerminalUntilReset := by
  intro i s t hl hi he
  rcases held_or_tookFrame_of_failed hl hi he with h | ⟨rfl, f, rest, hq, rfl⟩
  · exact ⟨h.lstate.trans hl, h.fcause, h.priorFail, h.r, h.asm, .inl h.txq⟩
  · exact ⟨hl, rfl, rfl, rfl, le_rfl, .inr ⟨f, rfl, hq⟩⟩

/-! ## STATUS -/

/-- A flag at a bit above every set bit of a word adds its weight. -/
theorem or_flagAt_toNat {x : ReadWord} {m n : Nat} (hx : x.toNat = m) (hm : m < 2 ^ n) (hn : n < 32) (b : Bool) :
    (x ||| flagAt b n).toNat = m + 2 ^ n * b.toNat := by
  have hflag : (flagAt b n).toNat = b.toNat <<< n := by
    have hpow : 2 ^ n < 4294967296 := Nat.pow_lt_pow_right (n := 32) (by omega) hn
    cases b <;> simp [flagAt, Nat.shiftLeft_eq, Nat.mod_eq_of_lt hpow]
  rw [BitVec.toNat_or, hx, hflag, Nat.or_comm, ← Nat.shiftLeft_add_eq_or_of_lt hm, Nat.shiftLeft_eq]
  ring

/-- LSTATE and FCAUSE in STATUS, bits [1:0] and [6:4] (R51). -/
theorem status_codes_toNat (l : LinkState) (c : FCause) :
    (l.code.setWidth 32 ||| (c.code.setWidth 32 <<< 4) : ReadWord).toNat =
      (match l with | .poweredUp => 0 | .awaitingRecallResponse => 1 | .active => 2 | .failed => 3) +
      16 * (match c with
        | .none => 0 | .pollTimeout => 1 | .responseTimeout => 2 | .linkDown => 3 | .closed => 4) := by
  cases l <;> cases c <;> rfl

theorem status_codes_lt (l : LinkState) (c : FCause) :
    (l.code.setWidth 32 ||| (c.code.setWidth 32 <<< 4) : ReadWord).toNat < 2 ^ 8 := by
  cases l <;> cases c <;> decide

theorem txReady_eq (s : State) : s.txReady = (decide (s.txq ≠ []) && decide (s.asm = [])) := by
  cases hq : s.txq <;> cases ha : s.asm <;> simp [State.txReady, hq, ha]

theorem irq_eq (s : State) : s.irq = decide (s.rptq ≠ []) := by
  cases hq : s.rptq <;> simp [State.irq, hq]

/-- Settles O44: each flag of STATUS stands above the fields before it, so the word is their sum. -/
theorem statusPacksItsFields : Obligations.StatusPacksItsFields := by
  intro s
  have hpf := s.priorFail.toNat_le
  have hh := s.heard.toNat_le
  have hov := s.rptOvf.toNat_le
  have htr := s.txReady.toNat_le
  have hirq := s.irq.toNat_le
  have hlt := status_codes_lt s.lstate s.fcause
  have h8 := or_flagAt_toNat rfl hlt (by decide) s.priorFail
  have h9 := or_flagAt_toNat h8 (n := 9) (by omega) (by decide) s.heard
  have h10 := or_flagAt_toNat h9 (n := 10) (by omega) (by decide) s.rptOvf
  have h11 := or_flagAt_toNat h10 (n := 11) (by omega) (by decide) s.txReady
  have h12 := or_flagAt_toNat h11 (n := 12) (by omega) (by decide) s.irq
  have h16 := or_flagAt_toNat h12 (n := 16) (by omega) (by decide) s.healthBit
  have hword : (s.rdReg 0x00).toNat = s.status.toNat := rfl
  rw [hword, ← txReady_eq, ← irq_eq]
  refine h16.trans ?_
  rw [status_codes_toNat]
  rfl

end Sys2Proof.Machine
end

section
/-! What the read port shows (spec/20_memory.md R72, R76, R31, R50): the value of each form of a read word, and the
element each address names. -/

namespace Sys2Proof.Machine

/-! ## The forms of a read word -/

/-- Bit b of word w is the point at bit 32w + b of the register (R76). -/
theorem getLsbD_vecWord (x : VecReg) (w : Nat) {b : Nat} (hb : b < 32) :
    (vecWord x w).getLsbD b = pt x (32 * w + b + 1) := by
  rw [vecWord, BitVec.getLsbD_extractLsb', pt, Nat.add_sub_cancel]
  simp [hb]

/-- A count is shown up to the largest read word. -/
theorem countWord_toNat (n : Nat) : (countWord n).toNat = min n 4294967295 := by
  rw [countWord, BitVec.toNat_ofNat]
  omega

/-- Two fields of at most 8 bits, the second at bit 8: the word is their sum. -/
theorem fields_at_0_and_8_toNat {m n : Nat} (x : BitVec m) (y : BitVec n) (hm : m ≤ 8) (hn : n ≤ 8) :
    (x.setWidth 32 ||| (y.setWidth 32 <<< 8) : ReadWord).toNat = x.toNat + 256 * y.toNat := by
  have hx : x.toNat < 2 ^ 8 := x.isLt.trans_le (Nat.pow_le_pow_right (by decide) hm)
  have hy : y.toNat < 2 ^ 8 := y.isLt.trans_le (Nat.pow_le_pow_right (by decide) hn)
  have hhigh : (y.setWidth 32 <<< 8 : ReadWord).toNat = y.toNat <<< 8 := by
    rw [BitVec.toNat_shiftLeft, BitVec.toNat_setWidth, Nat.shiftLeft_eq, Nat.shiftLeft_eq]
    omega
  have hlow : (x.setWidth 32 : ReadWord).toNat = x.toNat := by
    rw [BitVec.toNat_setWidth]
    omega
  rw [BitVec.toNat_or, hlow, hhigh, Nat.or_comm, ← Nat.shiftLeft_add_eq_or_of_lt hx, Nat.shiftLeft_eq]
  omega

/-- ASM_LEN and ASM_EXP (R31); a full ASM has 33 bytes, and no header announces more. -/
theorem asmWord_toNat {s : State} (h : s.asm.length ≤ 33) :
    s.asmWord.toNat = s.asm.length + 256 * (match s.asm with | [] => 0 | h :: _ => h.toNat % 32 + 2) := by
  have hexp : announcedLen s.asm = (match s.asm with | [] => 0 | h :: _ => h.toNat % 32 + 2) := by
    cases s.asm with
    | nil => rfl
    | cons h rest => simp [announcedLen, hdrLen]
  have hle : announcedLen s.asm ≤ 33 := by
    cases s.asm with
    | nil => simp [announcedLen]
    | cons h rest => simp only [announcedLen]; omega
  rw [State.asmWord, fields_at_0_and_8_toNat _ _ (by decide) (by decide), BitVec.toNat_ofNat, BitVec.toNat_ofNat,
    Nat.mod_eq_of_lt (by omega), Nat.mod_eq_of_lt (by omega), hexp]

/-- L and NB (R50). -/
theorem sizeWord_toNat (s : State) :
    s.sizeWord.toNat = 32 + 16 * s.sess.euc.toNat + 256 * (4 + 2 * s.sess.euc.toNat) := by
  have he := s.sess.euc.isLt
  rw [State.sizeWord, fields_at_0_and_8_toNat _ _ (by decide) (by decide), BitVec.toNat_ofNat, BitVec.toNat_ofNat,
    State.len, State.nb]
  omega

/-- The eight configuration registers by number, each shown whole (R72). -/
theorem readWord_toNat (c : ConfigRegs) :
    (c.readWord 0).toNat = c.euc.toNat ∧
    (c.readWord 1).toNat = (match c.role with | .controller => 0 | .station => 1) ∧
    (c.readWord 2).toNat = c.linkto.toNat ∧ (c.readWord 3).toNat = c.pollto.toNat ∧
    (c.readWord 4).toNat = c.respto.toNat ∧ (c.readWord 5).toNat = c.retry.toNat ∧
    (c.readWord 6).toNat = c.gapadj.toNat ∧ (c.readWord 7).toNat = c.pollint.toNat := by
  have hrole : (c.readWord 1).toNat = (match c.role with | .controller => 0 | .station => 1) := by
    rw [ConfigRegs.readWord]
    cases c.role <;> rfl
  refine ⟨?_, hrole, ?_, ?_, ?_, ?_, ?_, ?_⟩ <;> exact BitVec.toNat_setWidth_of_le (by decide)

/-! ## The addresses -/

theorem rdReg_v (s : State) {w : Nat} (hw : w < 4) : s.rdReg (BitVec.ofNat 8 (0x10 + w)) = vecWord s.v w := by
  interval_cases w <;> rfl

theorem rdReg_r (s : State) {w : Nat} (hw : w < 4) : s.rdReg (BitVec.ofNat 8 (0x14 + w)) = vecWord s.r w := by
  interval_cases w <;> rfl

theorem rdReg_stg (s : State) {w : Nat} (hw : w < 4) : s.rdReg (BitVec.ofNat 8 (0x18 + w)) = vecWord s.stg w := by
  interval_cases w <;> rfl

/-- The scalar rows end at 0x0B. -/
theorem rdScalar_eq_zero (s : State) {a : Nat} (h : 0x0C ≤ a) : s.rdScalar a = 0 := by
  obtain ⟨k, rfl⟩ := Nat.exists_eq_add_of_le' h
  rfl

/-- An address of no row of R72 reads 0: past the scalars, past the vectors, past the session. -/
theorem rdReg_outside_table (s : State) {a : BitVec 8}
    (h : 0x0C ≤ a.toNat ∧ a.toNat ≤ 0x0F ∨ 0x1C ≤ a.toNat ∧ a.toNat ≤ 0x1F ∨ 0x30 ≤ a.toNat) : s.rdReg a = 0 := by
  rcases h with ⟨hlo, hhi⟩ | ⟨hlo, hhi⟩ | hlo
  · simp (disch := omega) only [State.rdReg, if_pos, rdScalar_eq_zero s hlo]
  · simp (disch := omega) only [State.rdReg, if_pos, if_neg]
  · simp (disch := omega) only [State.rdReg, if_neg]

/-- Settles O45: each address is a word of its vector, and each bit of the word its point. -/
theorem readWordsShowPointsInOrder : Obligations.ReadWordsShowPointsInOrder := by
  intro s w b hw hb
  rw [rdReg_v s hw, rdReg_r s hw, rdReg_stg s hw]
  exact ⟨getLsbD_vecWord s.v w hb, getLsbD_vecWord s.r w hb, getLsbD_vecWord s.stg w hb⟩

/-- Settles O46: the counters as they stand, the packed words by the sum of their fields, the configuration and the
session register by register, and the holes of the table. -/
theorem readPortShowsTheOtherRows : Obligations.ReadPortShowsTheOtherRows := by
  intro s
  have hretry : (s.rdReg 0x02).toNat = s.retryCnt.toNat :=
    BitVec.toNat_setWidth_of_le (b := s.retryCnt) (by decide : 8 ≤ 32)
  refine ⟨rfl, hretry, rfl, rfl, rfl, rfl, asmWord_toNat, rfl, countWord_toNat _, countWord_toNat _, sizeWord_toNat s,
    ?_, fun a => rdReg_outside_table s⟩
  rintro b c (⟨rfl, rfl⟩ | ⟨rfl, rfl⟩)
  · exact readWord_toNat s.cfg
  · exact readWord_toNat s.sess

end Sys2Proof.Machine
end

section
/-! The output of a step (spec/20_memory.md R85; spec/10_state.md R39, R40): every shared operation keeps the output
field, so only the two handshakes fill it. -/

namespace Sys2Proof.Machine

/-! ## The output field -/

theorem frameReceived_out (s : State) (fr : Frame) : (s.frameReceived fr).out = s.out := by
  rcases frameReceived_cases s fr with ⟨-, e⟩ | ⟨-, -, e⟩ | ⟨-, -, e⟩ | ⟨-, -, e⟩ | ⟨-, b, -, e⟩ |
    ⟨-, i, b, -, e⟩ | ⟨-, b, -, e⟩ <;> simp [e]

theorem completeFrame_out (s : State) (f : List Byte) : (s.completeFrame f).out = s.out := by
  rcases completeFrame_cases s f with ⟨_, -, e⟩ | ⟨fr, -, e⟩ <;> rw [e]
  · simp
  · exact frameReceived_out s.clearAsm fr

theorem acceptByte_out (s : State) (b : Byte) : (s.acceptByte b).out = s.out := by
  rcases acceptByte_cases s b with ⟨-, e⟩ | ⟨-, e⟩ <;> rw [e]
  exact completeFrame_out s _

theorem tickLinkTimeout_out (s : State) : s.tickLinkTimeout.out = s.out := by
  rcases tickLinkTimeout_cases s with ⟨-, e⟩ | ⟨-, e⟩ | ⟨-, e⟩ <;> simp [e]

theorem tickPoweredUp_out (s : State) : s.tickPoweredUp.out = s.out := by
  rcases tickPoweredUp_cases s with ⟨-, e | e⟩ | ⟨-, e | e⟩ <;> simp [e]

theorem tickAwaiting_out (s : State) : s.tickAwaiting.out = s.out := by
  rcases tickAwaiting_cases s with e | ⟨-, e⟩ | e <;> simp [e, State.reportResponseTimeout]

theorem tickActive_out (s : State) : s.tickActive.out = s.out := by
  rcases tickActive_cases s with e | e <;> simp [e]

theorem tickLink_out (s : State) : s.tickLink.out = s.out := by
  unfold State.tickLink
  split
  · exact tickPoweredUp_out s
  · exact tickAwaiting_out s
  · exact tickActive_out s
  · rfl

theorem tickKeepAlive_out (s : State) : s.tickKeepAlive.out = s.out := by
  rcases tickKeepAlive_cases s with e | e <;> simp [e]

theorem tickStages_out (s : State) : s.tickStages.out = s.out := by
  have hhealth (t : State) : t.tickHealth.out = t.out := rfl
  have hcounters : s.tickCounters.out = s.out := rfl
  rw [State.tickStages, tickKeepAlive_out, emitIfActive_out, hhealth, tickLink_out, tickLinkTimeout_out, hcounters]

/-- An instruction that finds no output leaves none, unless a handshake took the head of its queue. -/
theorem out_none_or_took {i : Instr} {s t : State} (hout : s.out = none) (he : exec i s = .next t) :
    t.out = none ∨
    (i = .txtake ∧ ∃ f rest, s.txq = f :: rest ∧ t = { s with out := some (.frame f), txq := rest }) ∨
    (i = .rpttake ∧ ∃ w rest, s.rptq = w :: rest ∧ t = { s with out := some (.report w), rptq := rest }) := by
  cases effect_of_exec he with
  | nothing => exact .inl hout
  | reported => exact .inl ((report_out _ _ _).trans hout)
  | fault => exact .inl ((report_out _ _ _).trans hout)
  | byte sop b => exact .inl ((acceptByte_out s b).trans hout)
  | restart b => exact .inl (((acceptByte_out _ b).trans (dropPartial_out s)).trans hout)
  | frame _ _ f => exact .inl ((completeFrame_out s f).trans hout)
  | sentRecall => exact .inl ((sendRecall_out s).trans hout)
  | fail _ _ cause => exact .inl ((enterFailed_out s cause).trans hout)
  | tick => exact .inl ((tickStages_out s).trans hout)
  | point => exact .inl (((emitIfActive_out _).trans (report_out _ _ _)).trans hout)
  | staged => exact .inl hout
  | loaded => exact .inl ((emitIfActive_out _).trans hout)
  | configured => exact .inl hout
  | reset => exact .inl ((linkReset_out s).trans hout)
  | noOutput => exact .inl rfl
  | tookFrame f rest hq => exact .inr (.inl ⟨rfl, f, rest, hq, rfl⟩)
  | tookReport w rest hq => exact .inr (.inr ⟨rfl, w, rest, hq, rfl⟩)

/-- While a frame is being received, TXTAKE takes none (R286). -/
theorem exec_txtake_of_receiving {s : State} (h : s.asm ≠ []) : exec .txtake s = .next { s with out := none } := by
  simp only [exec, execTxtake]
  split
  · rfl
  · rw [if_neg (by simpa using h)]

/-- No instruction writes the parameters or the pending words. -/
theorem exec_keeps_params_input {i : Instr} {s t : State} (he : exec i s = .next t) :
    t.params = s.params ∧ t.input = s.input := by
  rcases extends_or_writes_of_exec he with ⟨-, h⟩ | ⟨_, _, -, rfl⟩ | ⟨_, _, -, rfl⟩ | ⟨-, rfl⟩ | ⟨-, _, _, rfl⟩
  · exact ⟨h.params, h.input⟩
  · exact ⟨rfl, rfl⟩
  · exact ⟨rfl, rfl⟩
  · exact ⟨linkReset_params s, linkReset_input s⟩
  · exact ⟨rfl, rfl⟩

/-- Settles O58: an output is the head the handshake took, and TXTAKE takes none during a reception. -/
theorem outputsLeaveOnlyThroughTheirQueues : Obligations.OutputsLeaveOnlyThroughTheirQueues := by
  intro i s t hout he
  have hkeeps := exec_keeps_params_input he
  rcases out_none_or_took hout he with hnone | ⟨rfl, f, rest, hq, rfl⟩ | ⟨rfl, w, rest, hq, rfl⟩
  · exact ⟨fun f hf => by simp [hnone] at hf, fun w hw => by simp [hnone] at hw, hkeeps⟩
  · have hasm : s.asm = [] := by
      by_contra hne
      simp [exec_txtake_of_receiving hne] at he
    refine ⟨fun g hg => ?_, nofun, hkeeps⟩
    cases hg
    exact ⟨rfl, hasm, hq⟩
  · refine ⟨nofun, fun x hx => ?_, hkeeps⟩
    cases hx
    exact ⟨rfl, hq⟩

end Sys2Proof.Machine
end

section
/-! Runs from power-on (spec/20_memory.md R84; spec/70_reset_and_hazards.md R352): the invariant in every reachable
state, and every schedule run to its end, one word a step (R8). -/

namespace Sys2Proof.Machine

/-! ## The invariant along a run -/

/-- The invariant at power-on, for every parameter value. -/
theorem inv_powerOn (p : Params) : Inv (State.powerOn p) where
  cfgEuc := Nat.zero_le _
  sessEuc := Nat.zero_le _
  vAbove := fun i _ _ => pt_zero i
  rAbove := fun i _ _ => pt_zero i
  asmPartial := fun h => absurd rfl h
  asmTimer := fun _ => rfl
  failedEmpty := nofun
  puOutside := fun _ => rfl
  puStation := fun _ => rfl
  respOutside := fun _ => rfl
  retryBound := Nat.zero_le _
  causeInFailed := ⟨nofun, fun h => absurd rfl h⟩
  activeHeard := nofun
  healthHeard := fun h => absurd h (by simp [State.powerOn, pt_zero])
  txqBound := fun _ _ => Nat.zero_le _
  rptqBound := fun _ _ => Nat.zero_le _
  txqValid := nofun
  rptqCodes := nofun

/-- The invariant says nothing of the pending words. -/
theorem Inv.withInput {s : State} (h : Inv s) (ws : List EventWord) : Inv { s with input := ws } := { h with }

/-- Settles O50: power-on meets the invariant, and a delivery and a step keep it. -/
theorem everyReachableStateMeetsTheInvariant : Obligations.EveryReachableStateMeetsTheInvariant := by
  intro p s hs
  induction hs with
  | powerOn => exact inv_powerOn p
  | deliver s w _ ih => exact ih.withInput _
  | step s t _ hstep ih => exact stepKeepsTheStateInvariant s t ih hstep

/-! ## One word a step -/

/-- Every instruction has a next state in every state (R326). -/
theorem exec_next (i : Instr) (s : State) : ∃ t, exec i s = .next t := by
  cases i with
  | rxb sop b =>
    simp only [exec, execRxb]
    split
    · exact ⟨_, rfl⟩
    · split <;> exact ⟨_, rfl⟩
  | setbit b i =>
    simp only [exec, execSetbit]
    split <;> exact ⟨_, rfl⟩
  | loadall n =>
    simp only [exec, execLoadall]
    split <;> exact ⟨_, rfl⟩
  | cfg reg value =>
    simp only [exec, execCfg]
    split
    · exact ⟨_, rfl⟩
    · split <;> exact ⟨_, rfl⟩
  | txtake =>
    simp only [exec, execTxtake]
    split
    · exact ⟨_, rfl⟩
    · split <;> exact ⟨_, rfl⟩
  | rpttake =>
    simp only [exec, execRpttake]
    split <;> exact ⟨_, rfl⟩
  | _ => exact ⟨_, rfl⟩

/-- A step whose fetched word is rejected only reports it (R290). -/
theorem step_of_fetch_decode_error {s s1 : State} {w : EventWord} {e : EventReject}
    (hfetch : s.fetchEvent = some (w, s1)) (hdec : decodeEvent w = .error e) : step s = .next (s1.rejectEvent w e) := by
  simp only [step, hfetch, hdec]

/-- A step with a word pending consumes that word and no other (R8). -/
theorem step_of_input_cons {s : State} {w : EventWord} {rest : List EventWord} (hin : s.input = w :: rest) :
    ∃ t, step s = .next t ∧ t.input = rest := by
  have hfetch := fetchEvent_of_input_cons hin
  cases hdec : decodeEvent w with
  | ok i =>
    obtain ⟨t, ht⟩ := exec_next i { s with input := rest, out := none }
    obtain ⟨-, hinput⟩ := exec_keeps_params_input ht
    exact ⟨t, (step_of_fetch_decode_ok hfetch hdec).trans ht, hinput⟩
  | error e => exact ⟨_, step_of_fetch_decode_error hfetch hdec, report_input _ _ _⟩

theorem run_succ_of_step {s t : State} (h : step s = .next t) (k : Nat) :
    Sys2Proof.core.run (k + 1) s = Sys2Proof.core.run k t := by
  have hcore : Sys2Proof.core.step s = .next t := h
  simp only [Host.Core.run, hcore]

/-- As many steps as words are pending leave none, and keep the invariant. -/
theorem run_consumes_input (ws : List EventWord) {s : State} (hs : Inv s) (hin : s.input = ws) :
    ∃ t : State, Sys2Proof.core.run ws.length s = .next t ∧ t.input = [] ∧ Inv t := by
  induction ws generalizing s with
  | nil => exact ⟨s, rfl, hin, hs⟩
  | cons w rest ih =>
    obtain ⟨s', hstep, hrest⟩ := step_of_input_cons hin
    obtain ⟨t, hrun, hdone⟩ := ih (stepKeepsTheStateInvariant s s' hs hstep) hrest
    exact ⟨t, (run_succ_of_step hstep rest.length).trans hrun, hdone⟩

/-- An interleaving has every element of its two lists and no other. -/
theorem Merge.length_eq {α : Type} {a b m : List α} (h : Merge a b m) : m.length = a.length + b.length := by
  induction h with
  | nil => rfl
  | left x a b m _ ih => simp only [List.length_cons, ih]; omega
  | right x a b m _ ih => simp only [List.length_cons, ih]; omega

/-- Settles O51: the merged words are as many as the three sources', and the run from power-on consumes them. -/
theorem everyScheduleRunsToItsEnd : Obligations.EveryScheduleRunsToItsEnd := by
  rintro p transport host ticks merged ⟨m, hm, hmerged⟩
  refine ⟨?_, run_consumes_input merged ((inv_powerOn p).withInput merged) rfl⟩
  rw [hmerged.length_eq, hm.length_eq]

end Sys2Proof.Machine
end

section
/-! The fields of an event word (spec/30_encoding.md R101, R102): a field read out of a word, a field put back into one,
and the bits an opcode fixes. -/

namespace Sys2Proof.Machine

/-! ## Fields -/

/-- The word that holds x in the bits from s up, and 0 elsewhere. -/
def fieldAt (s : Nat) {n : Nat} (x : BitVec n) : EventWord := x.setWidth 32 <<< s

theorem setWidth_eq_fieldAt {n : Nat} (x : BitVec n) : x.setWidth 32 = fieldAt 0 x := (BitVec.shiftLeft_zero _).symm

/-- A bit of a field is the bit of its operand, s places lower. -/
theorem getLsbD_fieldAt (s : Nat) {n : Nat} (x : BitVec n) (j : Nat) :
    (fieldAt s x).getLsbD j = (decide (j < 32) && decide (s ≤ j) && x.getLsbD (j - s)) := by
  simp only [fieldAt, BitVec.getLsbD_shiftLeft, BitVec.getLsbD_setWidth]
  grind

@[simp] theorem extract_fieldAt_same {s n : Nat} (hs : s + n ≤ 32) (x : BitVec n) :
    (fieldAt s x).extractLsb' s n = x := by
  ext j hj
  simp only [BitVec.getElem_extractLsb', getLsbD_fieldAt]
  grind

/-- A field reads 0 in the bits below it. -/
@[simp] theorem extract_fieldAt_of_below {s n s' m : Nat} (hs : s + n ≤ s') (x : BitVec m) :
    (fieldAt s' x).extractLsb' s n = 0#n := by
  ext j hj
  simp only [BitVec.getElem_extractLsb', getLsbD_fieldAt]
  grind

/-- A field reads 0 in the bits above it. -/
@[simp] theorem extract_fieldAt_of_above {s n s' m : Nat} (hs : s' + m ≤ s) (x : BitVec m) :
    (fieldAt s' x).extractLsb' s n = 0#n := by
  ext j hj
  simp only [BitVec.getElem_extractLsb', getLsbD_fieldAt]
  grind

/-- A field read out of a word and put back is the word's own bits there. -/
theorem fieldAt_extract (w : EventWord) (s n : Nat) :
    fieldAt s (w.extractLsb' s n) = w &&& fieldAt s (BitVec.allOnes n) := by
  refine BitVec.eq_of_getLsbD_eq fun j hj => ?_
  simp only [BitVec.getLsbD_and, getLsbD_fieldAt, BitVec.getLsbD_extractLsb', BitVec.getLsbD_allOnes]
  grind

/-- A flag is a field of one bit. -/
theorem ofBool_getLsbD (w : EventWord) (s : Nat) : BitVec.ofBool (w.getLsbD s) = w.extractLsb' s 1 := by
  ext j hj
  obtain rfl : j = 0 := by omega
  simp

theorem getLsbD_of_extract {w : EventWord} {s : Nat} {b : Bool} (h : w.extractLsb' s 1 = BitVec.ofBool b) :
    w.getLsbD s = b := by
  simpa [← ofBool_getLsbD] using congrArg (·.getLsbD 0) h

/-! ## The bits an opcode fixes -/

/-- The bits of an opcode's operands: those R102 neither gives the opcode nor marks reserved. -/
def operandMask (op : BitVec 4) : EventWord := 0x0FFFFFFF &&& ~~~reservedMask op

theorem opWord_opField (w : EventWord) : opWord (opField w) = w &&& 0xF0000000 := fieldAt_extract w 28 4

theorem opField_opWord (op : BitVec 4) : opField (opWord op) = op := extract_fieldAt_same (by omega) op

/-- A word lies in an opcode's row of the table exactly if it has that opcode and no reserved bit set. -/
theorem in_row_iff {w : EventWord} {op : BitVec 4} :
    w &&& (0xF0000000 ||| reservedMask op) = opWord op ↔ opField w = op ∧ reservedBitsOf w = 0 := by
  have habsorb (x y : EventWord) : (x ||| y) &&& x = x ∧ (x ||| y) &&& y = y := by
    constructor <;> ext <;> simp <;> grind
  constructor
  · intro h
    obtain ⟨hop, hres⟩ := habsorb 0xF0000000 (reservedMask op)
    have hopBits : ∀ op, opWord op &&& 0xF0000000 = opWord op ∧ opWord op &&& reservedMask op = 0 := by decide
    obtain ⟨hself, hzero⟩ := hopBits op
    have hfield : opWord (opField w) = opWord op := by rw [opWord_opField, ← hop, ← BitVec.and_assoc, h, hself]
    have hw : opField w = op := by rw [← opField_opWord (opField w), hfield, opField_opWord]
    exact ⟨hw, by rw [reservedBitsOf, hw, ← hres, ← BitVec.and_assoc, h, hzero]⟩
  · rintro ⟨rfl, hr⟩
    have hr' : w &&& reservedMask (opField w) = 0#32 := hr
    rw [BitVec.and_or_distrib_left, ← opWord_opField, hr', BitVec.or_zero]

/-- A word with no reserved bit set is its opcode and its operand bits. -/
theorem opWord_or_operands {w : EventWord} {op : BitVec 4} (hop : opField w = op) (hr : reservedBitsOf w = 0) :
    opWord op ||| (w &&& operandMask op) = w := by
  have hall : ∀ op, 0xF0000000 ||| reservedMask op ||| operandMask op = BitVec.allOnes 32 := by decide
  rw [← in_row_iff.2 ⟨hop, hr⟩, ← BitVec.and_or_distrib_left, hall, BitVec.and_allOnes]

end Sys2Proof.Machine
end

section
/-! The event words of spec/30_encoding.md R102: each form as the fields it is made of, its operands read back, and the
form rebuilt from the word its operands are read from. -/

namespace Sys2Proof.Machine

open Sys2Proof.Laws

/-! ## RXF's kinds (R106) -/

theorem ofCode_faultCode (k : TransportFault) : TransportFault.ofCode k.code = some k := by cases k <;> rfl

/-- The numbers 0 to 4 name a fault, each its own, and no other number does. -/
theorem ofCode_map_code (c : BitVec 3) :
    (TransportFault.ofCode c).map TransportFault.code = if c.toNat ≤ 4 then some c else none := by
  revert c
  decide

theorem code_of_ofCode {c : BitVec 3} {k : TransportFault} (h : TransportFault.ofCode c = some k) : k.code = c := by
  have hc := ofCode_map_code c
  rw [h] at hc
  split at hc
  · exact Option.some.inj hc
  · cases hc

theorem exists_code_of_le_four {c : BitVec 3} (h : c.toNat ≤ 4) : ∃ k : TransportFault, k.code = c := by
  have hc := ofCode_map_code c
  rw [if_pos h] at hc
  obtain ⟨k, -, hk⟩ := Option.map_eq_some_iff.1 hc
  exact ⟨k, hk⟩

/-! ## The fields of each form -/

theorem rxbWord_fields (sop : Bool) (b : Byte) :
    rxbWord sop b = opWord 0x1 ||| fieldAt 8 (BitVec.ofBool sop) ||| fieldAt 0 b := by
  rw [rxbWord, setWidth_eq_fieldAt b]; rfl

theorem rxfWord_fields (c : BitVec 3) : rxfWord c = opWord 0x2 ||| fieldAt 0 c := by
  rw [rxfWord, setWidth_eq_fieldAt]

theorem setbitWord_fields (state : Bool) (index : BitVec 8) :
    setbitWord state index = opWord 0x6 ||| fieldAt 8 (BitVec.ofBool state) ||| fieldAt 0 index := by
  rw [setbitWord, setWidth_eq_fieldAt index]; rfl

theorem wrstgWord_fields (k : BitVec 4) (b : Byte) :
    wrstgWord k b = opWord 0x7 ||| fieldAt 8 k ||| fieldAt 0 b := by
  rw [wrstgWord, setWidth_eq_fieldAt b]; rfl

theorem loadallWord_fields (n : BitVec 5) : loadallWord n = opWord 0x8 ||| fieldAt 0 n := by
  rw [loadallWord, setWidth_eq_fieldAt]

theorem cfgWord_fields (reg : BitVec 4) (value : BitVec 24) :
    cfgWord reg value = opWord 0x9 ||| fieldAt 24 reg ||| fieldAt 0 value := by
  rw [cfgWord, setWidth_eq_fieldAt value]; rfl

theorem reservedWord_fields (op : BitVec 4) (any : BitVec 28) :
    reservedWord op any = opWord op ||| fieldAt 0 any := by
  rw [reservedWord, setWidth_eq_fieldAt]

/-- The opcode is a field above every operand. -/
@[simp] theorem extract_opWord {s n : Nat} (hs : s + n ≤ 28) (op : BitVec 4) : (opWord op).extractLsb' s n = 0#n :=
  extract_fieldAt_of_below hs op

/-! ## Decoding each form -/

/-- A word in its opcode's row is decoded by its fields. -/
theorem decodeEvent_of_row {w : EventWord} {op : BitVec 4} (h : w &&& (0xF0000000 ||| reservedMask op) = opWord op) :
    opField w = op ∧ decodeEvent w = decodeFields w := by
  obtain ⟨hop, hr⟩ := in_row_iff.1 h
  exact ⟨hop, if_neg (not_not.2 hr)⟩

theorem decodeEvent_rxbWord (sop : Bool) (b : Byte) : decodeEvent (rxbWord sop b) = .ok (.rxb sop b) := by
  obtain ⟨hop, hdec⟩ := decodeEvent_of_row (op := 0x1)
    (show rxbWord sop b &&& 0xFFFFFE00 = 0x10000000 from TableRow.rxb sop b)
  have hsop : (rxbWord sop b).getLsbD 8 = sop := getLsbD_of_extract (by simp [rxbWord_fields, BitVec.extractLsb'_or])
  have hbyte : (rxbWord sop b).extractLsb' 0 8 = b := by simp [rxbWord_fields, BitVec.extractLsb'_or]
  simp only [hdec, decodeFields, hop, hsop, hbyte]
  rfl

theorem decodeEvent_rxfWord (k : TransportFault) : decodeEvent (rxfWord k.code) = .ok (.rxf k) := by
  cases k <;> rfl

theorem decodeEvent_setbitWord (state : Bool) (index : BitVec 8) :
    decodeEvent (setbitWord state index) = .ok (.setbit state index) := by
  obtain ⟨hop, hdec⟩ := decodeEvent_of_row (op := 0x6)
    (show setbitWord state index &&& 0xFFFFFE00 = 0x60000000 from TableRow.setbit state index)
  have hstate : (setbitWord state index).getLsbD 8 = state :=
    getLsbD_of_extract (by simp [setbitWord_fields, BitVec.extractLsb'_or])
  have hindex : (setbitWord state index).extractLsb' 0 8 = index := by simp [setbitWord_fields, BitVec.extractLsb'_or]
  simp only [hdec, decodeFields, hop, hstate, hindex]
  rfl

theorem decodeEvent_wrstgWord (k : BitVec 4) (b : Byte) : decodeEvent (wrstgWord k b) = .ok (.wrstg k b) := by
  obtain ⟨hop, hdec⟩ := decodeEvent_of_row (op := 0x7)
    (show wrstgWord k b &&& 0xFFFFF000 = 0x70000000 from TableRow.wrstg k b)
  have hk : (wrstgWord k b).extractLsb' 8 4 = k := by simp [wrstgWord_fields, BitVec.extractLsb'_or]
  have hbyte : (wrstgWord k b).extractLsb' 0 8 = b := by simp [wrstgWord_fields, BitVec.extractLsb'_or]
  simp only [hdec, decodeFields, hop, hk, hbyte]
  rfl

theorem decodeEvent_loadallWord (n : BitVec 5) : decodeEvent (loadallWord n) = .ok (.loadall n) := by
  obtain ⟨hop, hdec⟩ := decodeEvent_of_row (op := 0x8)
    (show loadallWord n &&& 0xFFFFFFE0 = 0x80000000 from TableRow.loadall n)
  have hn : (loadallWord n).extractLsb' 0 5 = n := by simp [loadallWord_fields, BitVec.extractLsb'_or]
  simp only [hdec, decodeFields, hop, hn]
  rfl

theorem decodeEvent_cfgWord (reg : BitVec 4) (value : BitVec 24) :
    decodeEvent (cfgWord reg value) = .ok (.cfg reg value) := by
  obtain ⟨hop, hdec⟩ := decodeEvent_of_row (op := 0x9)
    (show cfgWord reg value &&& 0xF0000000 = 0x90000000 from TableRow.cfg reg value)
  have hreg : (cfgWord reg value).extractLsb' 24 4 = reg := by simp [cfgWord_fields, BitVec.extractLsb'_or]
  have hvalue : (cfgWord reg value).extractLsb' 0 24 = value := by simp [cfgWord_fields, BitVec.extractLsb'_or]
  simp only [hdec, decodeFields, hop, hreg, hvalue]
  rfl

theorem extract_reservedWord (op : BitVec 4) (any : BitVec 28) : (reservedWord op any).extractLsb' 0 28 = any := by
  simp [reservedWord_fields, BitVec.extractLsb'_or]

theorem decodeEvent_reservedOp0 (any : BitVec 28) : decodeEvent (reservedWord 0x0 any) = .ok (.reservedOp0 any) := by
  obtain ⟨hop, hdec⟩ := decodeEvent_of_row (op := 0x0)
    (show reservedWord 0x0 any &&& 0xF0000000 = 0x00000000 from TableRow.reservedOp0 any)
  simp only [hdec, decodeFields, hop, extract_reservedWord]
  rfl

theorem decodeEvent_reservedOpE (any : BitVec 28) : decodeEvent (reservedWord 0xE any) = .ok (.reservedOpE any) := by
  obtain ⟨hop, hdec⟩ := decodeEvent_of_row (op := 0xE)
    (show reservedWord 0xE any &&& 0xF0000000 = 0xE0000000 from TableRow.reservedOpE any)
  simp only [hdec, decodeFields, hop, extract_reservedWord]
  rfl

theorem decodeEvent_reservedOpF (any : BitVec 28) : decodeEvent (reservedWord 0xF any) = .ok (.reservedOpF any) := by
  obtain ⟨hop, hdec⟩ := decodeEvent_of_row (op := 0xF)
    (show reservedWord 0xF any &&& 0xF0000000 = 0xF0000000 from TableRow.reservedOpF any)
  simp only [hdec, decodeFields, hop, extract_reservedWord]
  rfl

/-! ## Rebuilding each form from the word its operands are read from -/

theorem reservedWord_of_fields (op : BitVec 4) (hmask : operandMask op = fieldAt 0 (BitVec.allOnes 28))
    (w : EventWord) : reservedWord op (w.extractLsb' 0 28) = opWord op ||| (w &&& operandMask op) := by
  rw [reservedWord_fields, fieldAt_extract, hmask]

theorem rxbWord_of_fields (w : EventWord) :
    rxbWord (w.getLsbD 8) (w.extractLsb' 0 8) = opWord 0x1 ||| (w &&& operandMask 0x1) := by
  rw [rxbWord_fields, ofBool_getLsbD, fieldAt_extract, fieldAt_extract, BitVec.or_assoc, ← BitVec.and_or_distrib_left]
  rfl

theorem rxfWord_of_fields (w : EventWord) :
    rxfWord (w.extractLsb' 0 3) = opWord 0x2 ||| (w &&& operandMask 0x2) := by
  rw [rxfWord_fields, fieldAt_extract]
  rfl

theorem setbitWord_of_fields (w : EventWord) :
    setbitWord (w.getLsbD 8) (w.extractLsb' 0 8) = opWord 0x6 ||| (w &&& operandMask 0x6) := by
  rw [setbitWord_fields, ofBool_getLsbD, fieldAt_extract, fieldAt_extract, BitVec.or_assoc,
    ← BitVec.and_or_distrib_left]
  rfl

theorem wrstgWord_of_fields (w : EventWord) :
    wrstgWord (w.extractLsb' 8 4) (w.extractLsb' 0 8) = opWord 0x7 ||| (w &&& operandMask 0x7) := by
  rw [wrstgWord_fields, fieldAt_extract, fieldAt_extract, BitVec.or_assoc, ← BitVec.and_or_distrib_left]
  rfl

theorem loadallWord_of_fields (w : EventWord) :
    loadallWord (w.extractLsb' 0 5) = opWord 0x8 ||| (w &&& operandMask 0x8) := by
  rw [loadallWord_fields, fieldAt_extract]
  rfl

theorem cfgWord_of_fields (w : EventWord) :
    cfgWord (w.extractLsb' 24 4) (w.extractLsb' 0 24) = opWord 0x9 ||| (w &&& operandMask 0x9) := by
  rw [cfgWord_fields, fieldAt_extract, fieldAt_extract, BitVec.or_assoc, ← BitVec.and_or_distrib_left]
  rfl

end Sys2Proof.Machine
end

section
/-! Encoding and decoding agree (spec/30_encoding.md R90 to R108), for event words and for frames, in both directions. -/

namespace Sys2Proof.Machine

/-! ## Frames (R90, R91, R99) -/

theorem packHeader_hdrType_hdrLen (h : Byte) : packHeader (hdrType h) (hdrLen h) = h := by
  refine BitVec.eq_of_getLsbD_eq fun j hj => ?_
  simp only [packHeader, hdrType, hdrLen, BitVec.getLsbD_or, BitVec.getLsbD_shiftLeft, BitVec.getLsbD_setWidth,
    BitVec.getLsbD_extractLsb']
  grind

/-- The payload and the checksum byte are all of a frame after its header. -/
theorem take_append_getLastD {α : Type} {l : List α} {n : Nat} (d : α) (h : l.length = n + 1) :
    l.take n ++ [l.getLastD d] = l := by
  obtain rfl | ⟨l', c, rfl⟩ := List.eq_nil_or_concat l
  · simp at h
  · obtain rfl : l'.length = n := by simpa using h
    simp

theorem decodeFrameRow_all {p : List Byte} (h : p.length ≤ 31) (c : Byte) :
    decodeFrameRow (packHeader typeAll (BitVec.ofNat 5 p.length) :: (p ++ [c])) = .ok (.allFrame p c) := by
  have htypes : typeAll ≠ typeRecall ∧ typeAll ≠ typeUpdate := by decide
  have hlen : (BitVec.ofNat 5 p.length).toNat = p.length := by
    rw [BitVec.toNat_ofNat]
    omega
  simp [decodeFrameRow, htypes, hlen]

theorem decodeFrameRow_encode {i : Instr} {f : List Byte} (hi : i.wellFormed = true) (h : encode i = .frame f) :
    decodeFrameRow f = .ok i := by
  cases i with
  | recallFrame c => cases h; rfl
  | updateFrame u c => cases h; rfl
  | allFrame p c => cases h; exact decodeFrameRow_all (of_decide_eq_true hi) c
  | _ => cases h

theorem encode_allFrame_of_length {hd : Byte} {rest : List Byte} (ht : hdrType hd = typeAll)
    (hn : rest.length = (hdrLen hd).toNat + 1) :
    (Instr.allFrame (rest.take (hdrLen hd).toNat) (rest.getLastD 0)).wellFormed = true ∧
      encode (.allFrame (rest.take (hdrLen hd).toNat) (rest.getLastD 0)) = .frame (hd :: rest) := by
  have hbound := (hdrLen hd).isLt
  have htake : (rest.take (hdrLen hd).toNat).length = (hdrLen hd).toNat := by
    rw [List.length_take]
    omega
  refine ⟨by simp only [Instr.wellFormed, htake, decide_eq_true_eq]; omega, ?_⟩
  rw [encode, htake, BitVec.ofNat_toNat, BitVec.setWidth_eq, ← ht, packHeader_hdrType_hdrLen, take_append_getLastD 0 hn]

/-- A frame row the decoder accepts has a header of its type, the length the header gives, and no other byte. -/
theorem encode_of_decodeFrameRow {f : List Byte} {i : Instr} (h : decodeFrameRow f = .ok i) :
    i.wellFormed = true ∧ encode i = .frame f := by
  cases f with
  | nil => cases h
  | cons hd rest =>
    have hhd := packHeader_hdrType_hdrLen hd
    simp only [decodeFrameRow] at h
    split at h
    · next ht =>
      split at h
      · next c =>
        split at h
        · next hn =>
          cases h
          exact ⟨rfl, by rw [encode, ← ht, ← hn, hhd]⟩
        · cases h
      · cases h
    · split at h
      · next ht =>
        split at h
        · next u c =>
          split at h
          · next hn =>
            cases h
            exact ⟨rfl, by rw [encode, ← ht, ← hn, hhd]⟩
          · cases h
        · cases h
      · split at h
        · next ht =>
          split at h
          · next hn =>
            cases h
            exact encode_allFrame_of_length ht hn
          · cases h
        · cases h

/-! ## Event words (R101 to R108) -/

/-- Only an ALL frame can be ill-formed. -/
theorem wellFormed_of_encode_event {i : Instr} {w : EventWord} (h : encode i = .event w) : i.wellFormed = true := by
  cases i with
  | allFrame p c => cases h
  | _ => rfl

theorem decodeEvent_encode {i : Instr} {w : EventWord} (h : encode i = .event w) : decodeEvent w = .ok i := by
  cases i with
  | rxb sop b => cases h; exact decodeEvent_rxbWord sop b
  | rxf k => cases h; exact decodeEvent_rxfWord k
  | setbit state index => cases h; exact decodeEvent_setbitWord state index
  | wrstg k b => cases h; exact decodeEvent_wrstgWord k b
  | loadall n => cases h; exact decodeEvent_loadallWord n
  | cfg reg value => cases h; exact decodeEvent_cfgWord reg value
  | reservedOp0 any => cases h; exact decodeEvent_reservedOp0 any
  | reservedOpE any => cases h; exact decodeEvent_reservedOpE any
  | reservedOpF any => cases h; exact decodeEvent_reservedOpF any
  | _ => cases h <;> rfl

theorem decodeFields_of_decodeEvent {w : EventWord} {i : Instr} (h : decodeEvent w = .ok i) :
    reservedBitsOf w = 0 ∧ decodeFields w = .ok i := by
  unfold decodeEvent at h
  split at h
  · cases h
  · next hr => exact ⟨not_not.1 hr, h⟩

/-- A word with no reserved bit set, of an opcode without operands, is that opcode. -/
theorem opWord_of_operandless {w : EventWord} {op : BitVec 4} (hnone : operandMask op = 0#32)
    (hw : opWord op ||| (w &&& operandMask op) = w) : opWord op = w := by
  rwa [hnone, BitVec.and_zero, BitVec.or_zero] at hw

/-- The instruction read from a word with no reserved bit set is encoded as that word. -/
theorem encode_of_decodeFields {w : EventWord} {i : Instr} (hr : reservedBitsOf w = 0) (h : decodeFields w = .ok i) :
    encode i = .event w := by
  have hw (op : BitVec 4) (hop : (opField w).toNat = op.toNat) : opWord op ||| (w &&& operandMask op) = w :=
    opWord_or_operands (BitVec.eq_of_toNat_eq hop) hr
  have operandless (op : BitVec 4) (hnone : operandMask op = 0#32) (hop : (opField w).toNat = op.toNat) :
      Encoded.event (opWord op) = .event w :=
    congrArg Encoded.event (opWord_of_operandless hnone (hw op hop))
  unfold decodeFields at h
  split at h
  case h_1 hop => cases h; exact congrArg Encoded.event ((reservedWord_of_fields 0x0 rfl w).trans (hw 0x0 hop))
  case h_2 hop => cases h; exact congrArg Encoded.event ((rxbWord_of_fields w).trans (hw 0x1 hop))
  case h_3 hop =>
    split at h
    · next k hk =>
      cases h
      rw [encode, code_of_ofCode hk]
      exact congrArg Encoded.event ((rxfWord_of_fields w).trans (hw 0x2 hop))
    · cases h
  case h_4 hop => cases h; exact operandless 0x3 rfl hop
  case h_5 hop => cases h; exact operandless 0x4 rfl hop
  case h_6 hop => cases h; exact operandless 0x5 rfl hop
  case h_7 hop => cases h; exact congrArg Encoded.event ((setbitWord_of_fields w).trans (hw 0x6 hop))
  case h_8 hop => cases h; exact congrArg Encoded.event ((wrstgWord_of_fields w).trans (hw 0x7 hop))
  case h_9 hop => cases h; exact congrArg Encoded.event ((loadallWord_of_fields w).trans (hw 0x8 hop))
  case h_10 hop => cases h; exact congrArg Encoded.event ((cfgWord_of_fields w).trans (hw 0x9 hop))
  case h_11 hop => cases h; exact operandless 0xA rfl hop
  case h_12 hop => cases h; exact operandless 0xB rfl hop
  case h_13 hop => cases h; exact operandless 0xC rfl hop
  case h_14 hop => cases h; exact operandless 0xD rfl hop
  case h_15 hop => cases h; exact congrArg Encoded.event ((reservedWord_of_fields 0xE rfl w).trans (hw 0xE hop))
  case h_16 =>
    have hop : (opField w).toNat = (0xF : BitVec 4).toNat := by
      have hlt := (opField w).isLt
      simp only [BitVec.reduceToNat]
      grind
    cases h
    exact congrArg Encoded.event ((reservedWord_of_fields 0xF rfl w).trans (hw 0xF hop))

/-! ## The decoder and the encoder -/

/-- Settles O1: an event word by its fields, a frame by its header and length. -/
theorem encodeThenDecodeReturnsTheInstruction : Obligations.EncodeThenDecodeReturnsTheInstruction := by
  intro i hi
  cases he : encode i with
  | event w => simp only [decode, decodeEvent_encode he]
  | frame f => simp only [decode, decodeFrameRow_encode hi he]

/-- Settles O2: the accepted word or frame is rebuilt from the fields it was decoded into. -/
theorem decodedEncodingIsTheOnlyOne : Obligations.DecodedEncodingIsTheOnlyOne := by
  intro x i h
  cases x with
  | event w =>
    cases hdec : decodeEvent w with
    | error e => simp [decode, hdec] at h
    | ok j =>
      obtain rfl : j = i := by simpa [decode, hdec] using h
      obtain ⟨hr, hfields⟩ := decodeFields_of_decodeEvent hdec
      have henc := encode_of_decodeFields hr hfields
      exact ⟨wellFormed_of_encode_event henc, henc⟩
  | frame f =>
    cases hdec : decodeFrameRow f with
    | error e => simp [decode, hdec] at h
    | ok j =>
      obtain rfl : j = i := by simpa [decode, hdec] using h
      exact encode_of_decodeFrameRow hdec

end Sys2Proof.Machine
end

section
/-! Words and frames written out in the spec (spec/30_encoding.md R102; spec/40_frame_codec.md R137 to R139), and what the
reserved opcodes do (spec/30_encoding.md R105, spec/43_control.md R290). -/

namespace Sys2Proof.Machine

/-- Settles O3: every event word is the encoding of its instruction as R102 lays it out, every frame the bytes of its
row. -/
theorem writtenOutWordsDecode : Obligations.WrittenOutWordsDecode := by
  have decoded {i : Instr} {x : Encoded} (hi : i.wellFormed = true) (hx : encode i = x) : decode x = .ok i := by
    rw [← hx, encodeThenDecodeReturnsTheInstruction i hi]
  refine ⟨?_, ?_, ?_, ?_, ?_, ?_, ?_, ?_, ?_, ?_, ?_, ?_⟩ <;> exact decoded (by decide) (by decide)

/-- A report is the word of its number, queued or lost (R185, R320). -/
theorem report_eq_noteWord {code : ReportCode} {info : Info} {n : Nat}
    (hn : reportWord code info = BitVec.ofNat 32 n) (s : State) : s.report code info = s.noteWord n := by
  rw [State.report, State.noteWord, hn]

/-- The ILLEGAL_COMMAND word: code 0x60, the opcode in [3:0], the reason in [5:4] (R290, R321). -/
theorem illegal_eq_noteWord (s : State) (op : BitVec 4) (reason : BitVec 2) :
    s.illegal op reason = s.noteWord (0x60000000 + 16 * reason.toNat + op.toNat) := by
  have hword : ∀ (op : BitVec 4) (reason : BitVec 2), reportWord .illegalCommand (illegalInfo op reason) =
      BitVec.ofNat 32 (0x60000000 + 16 * reason.toNat + op.toNat) := by decide
  exact report_eq_noteWord (hword op reason) s

/-- Settles O8: each reserved opcode reports its number with reason 0. -/
theorem reservedOpcodesOnlyReport : Obligations.ReservedOpcodesOnlyReport := fun _ s =>
  ⟨congrArg Host.Outcome.next (illegal_eq_noteWord s 0x0 0), congrArg Host.Outcome.next (illegal_eq_noteWord s 0xE 0),
    congrArg Host.Outcome.next (illegal_eq_noteWord s 0xF 0)⟩

end Sys2Proof.Machine
end

section
/-! The assembler's forms as encodings (spec/30_encoding.md R109, R110). -/

namespace Sys2Proof.Machine

/-- RXF's word, whatever its number is (R106). -/
theorem rxfWord_eq_ofNat (k : BitVec 3) : rxfWord k = BitVec.ofNat 32 (0x20000000 + k.toNat) := by
  revert k
  decide

/-- A WRSTGV line writes its bytes in order, byte k into staging byte k. -/
theorem getElem?_words_wrstgv {bytes : List Byte} {k : BitVec 4} {b : Byte} (h : bytes[k.toNat]? = some b) :
    (AsmLine.wrstgv bytes).words[k.toNat]? = some (wrstgWord k b) := by
  simp [AsmLine.words, h]

theorem encode_of_mem_singleton {w w' : EventWord} {i : Instr} (henc : encode i = .event w') (hsource : i.source ≠ none)
    (hw : w ∈ [w']) : ∃ i : Instr, encode i = .event w ∧ i.source ≠ none := by
  obtain rfl := List.mem_singleton.1 hw
  exact ⟨i, henc, hsource⟩

/-- Every word of a line is the encoding of an instruction that some source delivers, `.WORD` and a bad KIND apart. -/
theorem encode_of_mem_words {l : AsmLine} {w : EventWord} (hword : ∀ x, l ≠ .word x)
    (hkind : ∀ k, l = .rxf k → k.toNat ≤ 4) (hw : w ∈ l.words) : ∃ i : Instr, encode i = .event w ∧ i.source ≠ none := by
  cases l with
  | rxb b => exact encode_of_mem_singleton (i := .rxb false b) rfl (Option.some_ne_none _) hw
  | rxbSop b => exact encode_of_mem_singleton (i := .rxb true b) rfl (Option.some_ne_none _) hw
  | rxf k =>
    obtain ⟨kind, rfl⟩ := exists_code_of_le_four (hkind k rfl)
    exact encode_of_mem_singleton (i := .rxf kind) rfl (Option.some_ne_none _) hw
  | lidle => exact encode_of_mem_singleton (i := .lidle) rfl (Option.some_ne_none _) hw
  | ldown => exact encode_of_mem_singleton (i := .ldown) rfl (Option.some_ne_none _) hw
  | tick => exact encode_of_mem_singleton (i := .tick) rfl (Option.some_ne_none _) hw
  | reset => exact encode_of_mem_singleton (i := .reset) rfl (Option.some_ne_none _) hw
  | close => exact encode_of_mem_singleton (i := .close) rfl (Option.some_ne_none _) hw
  | txtake => exact encode_of_mem_singleton (i := .txtake) rfl (Option.some_ne_none _) hw
  | rpttake => exact encode_of_mem_singleton (i := .rpttake) rfl (Option.some_ne_none _) hw
  | setbit index state => exact encode_of_mem_singleton (i := .setbit state index) rfl (Option.some_ne_none _) hw
  | wrstg k b => exact encode_of_mem_singleton (i := .wrstg k b) rfl (Option.some_ne_none _) hw
  | loadall n => exact encode_of_mem_singleton (i := .loadall n) rfl (Option.some_ne_none _) hw
  | cfg reg value => exact encode_of_mem_singleton (i := .cfg reg value) rfl (Option.some_ne_none _) hw
  | word x => exact absurd rfl (hword x)
  | ticks n =>
    obtain ⟨-, rfl⟩ := List.mem_replicate.1 hw
    exact ⟨.tick, rfl, Option.some_ne_none _⟩
  | rxframe bytes =>
    obtain ⟨b, -, rfl⟩ := List.mem_map.1 hw
    exact ⟨.rxb false b, rfl, Option.some_ne_none _⟩
  | rxframeSop first rest =>
    obtain rfl | hw := List.mem_cons.1 hw
    · exact ⟨.rxb true first, rfl, Option.some_ne_none _⟩
    · obtain ⟨b, -, rfl⟩ := List.mem_map.1 hw
      exact ⟨.rxb false b, rfl, Option.some_ne_none _⟩
  | wrstgv bytes =>
    obtain ⟨p, -, rfl⟩ := List.mem_map.1 hw
    exact ⟨.wrstg (BitVec.ofNat 4 p.2) p.1, rfl, Option.some_ne_none _⟩

/-- Settles O60: the forms of one word by definition, the longer ones byte by byte; every other word decodes since it is
an encoding. -/
theorem assemblerFormsAreTheirInstructionsInOrder : Obligations.AssemblerFormsAreTheirInstructionsInOrder := by
  refine ⟨?oneWord, ?rxf, fun _ => rfl, fun n => List.map_replicate, ?longer, ?program, ?defined⟩
  case oneWord =>
    intro b kind index state k n v
    exact ⟨rfl, rfl, rfl, rfl, rfl, rfl, rfl, rfl, rfl, rfl, rfl, rfl, rfl, rfl⟩
  case rxf => exact fun k => congrArg (fun w => [w]) (rxfWord_eq_ofNat k)
  case longer =>
    intro first bytes
    refine ⟨List.map_map, congrArg (List.cons _) List.map_map, by simp [AsmLine.words], fun k b h => ?_⟩
    rw [List.getElem?_map, getElem?_words_wrstgv h]
    rfl
  case program => exact fun l rest => ⟨rfl, List.flatMap_cons⟩
  case defined =>
    intro l w hword hkind hw
    obtain ⟨i, henc, hsource⟩ := encode_of_mem_words hword hkind hw
    refine ⟨i, decodeEvent_encode henc, ?_, ?_, ?_⟩ <;> rintro a rfl <;> exact hsource rfl

end Sys2Proof.Machine
end

section
/-! The frame codec in numbers (spec/40_frame_codec.md R131 to R136, R140, R143, R144): the sum and the header's fields
by arithmetic, what makes decode fail, what it accepts, and the Update and All payloads point by point. -/

namespace Sys2Proof.Machine

/-! ## Sum and header -/

theorem sum8_toNat (f : List Byte) : (sum8 f).toNat = (f.map BitVec.toNat).sum % 256 := by
  induction f with
  | nil => rfl
  | cons b f ih => rw [sum8_cons, BitVec.toNat_add, ih, List.map_cons, List.sum_cons, Nat.add_mod_mod]

theorem sum8_eq_zero_iff (f : List Byte) : sum8 f = 0 ↔ (f.map BitVec.toNat).sum % 256 = 0 := by
  rw [← sum8_toNat, ← BitVec.toNat_inj]
  rfl

theorem hdrType_toNat (h : Byte) : (hdrType h).toNat = h.toNat / 32 := by
  have := h.isLt
  rw [hdrType, BitVec.extractLsb'_toNat, Nat.shiftRight_eq_div_pow]
  omega

theorem hdrLen_toNat (h : Byte) : (hdrLen h).toNat = h.toNat % 32 := by
  rw [hdrLen, BitVec.extractLsb'_toNat, Nat.shiftRight_zero]

theorem hdrType_eq_iff (h : Byte) (t : BitVec 3) : hdrType h = t ↔ h.toNat / 32 = t.toNat := by
  rw [← hdrType_toNat, BitVec.toNat_inj]

/-- The header's two fields stand side by side (R132). -/
theorem packHeader_toNat (t : BitVec 3) (n : BitVec 5) : (packHeader t n).toNat = 32 * t.toNat + n.toNat := by
  have ht := hdrType_toNat (packHeader t n)
  have hn := hdrLen_toNat (packHeader t n)
  rw [hdrType_packHeader] at ht
  rw [hdrLen_packHeader] at hn
  omega

theorem announcedLen_cons (h : Byte) (rest : List Byte) : announcedLen (h :: rest) = h.toNat % 32 + 2 := by
  rw [announcedLen, hdrLen_toNat]

/-! ## Message types -/

theorem ofCode_eq_none {c : BitVec 3} (h : ∀ t : MsgType, c ≠ t.code) : MsgType.ofCode c = none := by
  have hr : c ≠ typeRecall := h .msgRecall
  have hu : c ≠ typeUpdate := h .msgUpdate
  have ha : c ≠ typeAll := h .msgAll
  rw [MsgType.ofCode, if_neg hr, if_neg hu, if_neg ha]

theorem code_eq_of_ofCode {c : BitVec 3} {t : MsgType} (h : MsgType.ofCode c = some t) : t.code = c := by
  unfold MsgType.ofCode at h
  split at h
  · next hc => cases h; exact hc.symm
  · split at h
    · next hc => cases h; exact hc.symm
    · split at h
      · next hc => cases h; exact hc.symm
      · cases h

/-! ## What decode answers -/

theorem codecDecode_of_bad_sum {f : List Byte} (e : Nat) (hsum : (f.map BitVec.toNat).sum % 256 ≠ 0) :
    codecDecode f e = .error .checksumFailure := by
  rw [codecDecode.eq_def, if_pos (mt (sum8_eq_zero_iff f).1 hsum)]

theorem codecDecode_of_bad_type {h : Byte} {rest : List Byte} (e : Nat)
    (hsum : ((h :: rest).map BitVec.toNat).sum % 256 = 0) (ht : ∀ t : MsgType, hdrType h ≠ t.code) :
    codecDecode (h :: rest) e = .error .invalidMessageType := by
  rw [codecDecode, if_neg (not_not.2 ((sum8_eq_zero_iff _).2 hsum))]
  simp only [ofCode_eq_none ht]

theorem codecDecode_of_bad_length {h : Byte} {rest : List Byte} {t : MsgType} {e : Nat}
    (hsum : ((h :: rest).map BitVec.toNat).sum % 256 = 0) (ht : hdrType h = t.code)
    (hn : h.toNat % 32 ≠ expectedLen t e) : codecDecode (h :: rest) e = .error .invalidMessageLength := by
  rw [codecDecode, if_neg (not_not.2 ((sum8_eq_zero_iff _).2 hsum))]
  rw [← hdrLen_toNat] at hn
  simp only [ht, ofCode_code]
  exact if_pos (.inl hn)

/-- Decode reads the session only for the length of the frame's own type (R94, R135). -/
theorem codecDecode_congr {h : Byte} {rest : List Byte} {t : MsgType} {e e' : Nat} (ht : hdrType h = t.code)
    (hlen : expectedLen t e = expectedLen t e') : codecDecode (h :: rest) e = codecDecode (h :: rest) e' := by
  simp only [codecDecode, ht, ofCode_code]
  rw [hlen]

/-- A frame that decode accepts has sum 0, a header of its type and length, and one byte after the payload (R135). -/
theorem codecDecode_eq_ok {f : List Byte} {e : Nat} {fr : Frame} (h : codecDecode f e = .ok fr) :
    ∃ hd rest, f = hd :: rest ∧ sum8 f = 0 ∧ hdrType hd = fr.type.code ∧
      (hdrLen hd).toNat = expectedLen fr.type e ∧ rest.length = (hdrLen hd).toNat + 1 ∧
      fr.payload = rest.take (hdrLen hd).toNat := by
  unfold codecDecode at h
  split at h
  · cases h
  · next hsum =>
    split at h
    · cases h
    · next hd rest =>
      split at h
      · cases h
      · next t ht =>
        dsimp only at h
        split at h
        · cases h
        · next hn =>
          obtain ⟨hlen, hrest⟩ := not_or.1 hn
          cases h
          exact ⟨hd, rest, rfl, not_not.1 hsum, (code_eq_of_ofCode ht).symm, not_not.1 hlen, by omega, rfl⟩

/-- A byte that brings the sum to 0 is the checksum of the bytes before it (R131). -/
theorem checksum_of_sum8_eq_zero {body : List Byte} {c : Byte} (h : sum8 (body ++ [c]) = 0) : c = checksum body := by
  have hadd : sum8 body + c = 0 := by simpa [sum8_append] using h
  exact eq_neg_of_add_eq_zero_right hadd

/-- Bytes of sum 0 with a header of their type and length, and one byte after the payload, are that type's frame. -/
theorem frameBytes_of_fields {hd : Byte} {rest : List Byte} {t : MsgType} (hsum : sum8 (hd :: rest) = 0)
    (ht : hdrType hd = t.code) (hlen : rest.length = (hdrLen hd).toNat + 1) :
    frameBytes t (rest.take (hdrLen hd).toNat) = hd :: rest := by
  have hsplit := take_append_getLastD 0 hlen
  have htake : (rest.take (hdrLen hd).toNat).length = (hdrLen hd).toNat := by
    rw [List.length_take]
    omega
  have hhead : packHeader t.code (BitVec.ofNat 5 (rest.take (hdrLen hd).toNat).length) = hd := by
    rw [htake, BitVec.ofNat_toNat, BitVec.setWidth_eq, ← ht, packHeader_hdrType_hdrLen]
  have hcheck : rest.getLastD 0 = checksum (hd :: rest.take (hdrLen hd).toNat) := by
    apply checksum_of_sum8_eq_zero
    rwa [List.cons_append, hsplit]
  rw [frameBytes, hhead, ← hcheck, List.cons_append, hsplit]

/-- Settles O10: the header and the checksum byte of an accepted frame are determined by its type and payload. -/
theorem decodedFrameIsAnEncodedFrame : Obligations.DecodedFrameIsAnEncodedFrame := by
  intro f e fr _ h
  obtain ⟨hd, rest, rfl, hsum, htype, hlen, hrest, hpayload⟩ := codecDecode_eq_ok h
  have hbytes := frameBytes_of_fields hsum htype hrest
  have hplen : fr.payload.length = expectedLen fr.type e := by
    rw [hpayload, List.length_take]
    omega
  rw [codecEncode_ok _ _ _ hplen, hpayload, hbytes]

/-- Settles O11: decode looks at the sum before anything else. -/
theorem badSumIsAlwaysChecksumFailure : Obligations.BadSumIsAlwaysChecksumFailure :=
  fun _ e hsum => codecDecode_of_bad_sum e hsum

/-! ## The Update payload -/

theorem updByte_toNat (i : Nat) (b : Bool) : (updByte i b).toNat = 128 * b.toNat + i % 128 := by
  have hlow : i % 128 < 2 ^ 7 := Nat.mod_lt _ (by decide)
  have hhigh : (BitVec.ofNat 8 b.toNat <<< 7).toNat = b.toNat <<< 7 := by cases b <;> rfl
  rw [updByte, BitVec.toNat_or, hhigh, BitVec.toNat_ofNat, Nat.mod_eq_of_lt (by omega : i % 128 < 2 ^ 8),
    ← Nat.shiftLeft_add_eq_or_of_lt hlow, Nat.shiftLeft_eq, Nat.mul_comm]

theorem updPoint_eq_namedPoint (u : Byte) : updPoint u = namedPoint u := by
  have hfield : (u.extractLsb' 0 7).toNat = u.toNat % 128 := by
    rw [BitVec.extractLsb'_toNat, Nat.shiftRight_zero]
  rw [updPoint, namedPoint, hfield]

theorem updState_eq_namedState (u : Byte) : updState u = namedState u := BitVec.msb_eq_decide u

/-- Every point from 1 to 128 is named by its own field value, 128 by 0 (R96). -/
theorem updPoint_updByte {i : Nat} (h1 : 1 ≤ i) (h128 : i ≤ 128) (b : Bool) : updPoint (updByte i b) = i := by
  rw [updPoint_eq_namedPoint, namedPoint, updByte_toNat]
  split <;> omega

theorem updState_updByte (i : Nat) (b : Bool) : updState (updByte i b) = b := by
  rw [updState_eq_namedState, namedState, updByte_toNat]
  have hlow : i % 128 < 128 := Nat.mod_lt _ (by decide)
  cases b <;> simp [hlow]

/-- Settles O9: the frame the encoder builds decodes to its fields, and an Update payload to its point and state. -/
theorem frameRoundTrip : Obligations.FrameRoundTrip := by
  refine ⟨fun t e p he hp => ?_, fun e i b h1 h128 => ?_⟩
  · exact ⟨_, _, codecEncode_ok t p e hp, codecDecode_frameBytes t p e hp he, rfl, rfl⟩
  · have hp : [updByte i b].length = expectedLen .msgUpdate e := rfl
    have hsession : codecDecode (frameBytes .msgUpdate [updByte i b]) e =
        codecDecode (frameBytes .msgUpdate [updByte i b]) 0 :=
      codecDecode_congr (t := .msgUpdate) (hdrType_packHeader _ _) rfl
    have hdec := hsession.trans (codecDecode_frameBytes .msgUpdate _ 0 hp (by decide))
    refine ⟨_, _, codecEncode_ok _ _ e hp, hdec, ?_⟩
    simp [frameBody, updPoint_updByte h1 h128, updState_updByte]

/-! ## The All payload -/

theorem getLsbD_vbyte (x : VecReg) (k : Nat) {i : Nat} (hi : i < 8) : (vbyte x k).getLsbD i = pt x (8 * k + i + 1) := by
  rw [vbyte, BitVec.getLsbD_extractLsb', pt, Nat.add_sub_cancel]
  simp [hi]

theorem getElem?_vbytes (x : VecReg) {m k : Nat} (hk : k < m) : (vbytes x m)[k]? = some (vbyte x k) := by
  rw [vbytes, List.getElem?_map, List.getElem?_range hk]
  rfl

/-- The first byte holds points 1 to 8, the other bytes the points after them (R140). -/
theorem pt_bitsOf_cons (b : Byte) (rest : List Byte) {i : Nat} (h1 : 1 ≤ i) (h128 : i ≤ 128) :
    pt (bitsOf (b :: rest)) i = if i ≤ 8 then b.getLsbD (i - 1) else pt (bitsOf rest) (i - 8) := by
  simp only [pt, bitsOf, BitVec.getLsbD_or, BitVec.getLsbD_shiftLeft, BitVec.getLsbD_setWidth]
  split
  · next h8 => simp [show i - 1 < 8 by omega, show i - 1 < 128 by omega]
  · next h8 =>
    simp [show ¬ i - 1 < 8 by omega, show i - 1 < 128 by omega, BitVec.getLsbD_of_ge b (i - 1) (by omega),
      Nat.sub_right_comm i 1 8]

/-- Point i is bit (i - 1) mod 8 of byte (i - 1) / 8, and 0 where there is no such byte (R140). -/
theorem pt_bitsOf (p : List Byte) {i : Nat} (h1 : 1 ≤ i) (h128 : i ≤ 128) :
    pt (bitsOf p) i = (p.getD ((i - 1) / 8) 0).getLsbD ((i - 1) % 8) := by
  induction p generalizing i with
  | nil => simp [bitsOf]
  | cons b rest ih =>
    rw [pt_bitsOf_cons b rest h1 h128]
    split
    · next h8 => rw [show (i - 1) / 8 = 0 by omega, Nat.mod_eq_of_lt (by omega)]; rfl
    · next h8 =>
      rw [ih (by omega) (by omega), show (i - 1) / 8 = (i - 8 - 1) / 8 + 1 by omega, List.getD_cons_succ,
        show (i - 1) % 8 = (i - 8 - 1) % 8 by omega]

theorem pt_bitsOf_above (p : List Byte) {i : Nat} (h : 8 * p.length < i) (h128 : i ≤ 128) :
    pt (bitsOf p) i = false := by
  rw [pt_bitsOf p (by omega) h128, List.getD_eq_default _ _ (by omega)]
  exact BitVec.getLsbD_zero

theorem pt_bitsOf_vbytes (x : VecReg) (m : Nat) {i : Nat} (h1 : 1 ≤ i) (h128 : i ≤ 128) :
    pt (bitsOf (vbytes x m)) i = (decide (i ≤ 8 * m) && pt x i) := by
  by_cases hi : i ≤ 8 * m
  · have hk : (i - 1) / 8 < m := by omega
    rw [pt_bitsOf _ h1 h128, List.getD_eq_getElem?_getD, getElem?_vbytes x hk, Option.getD_some,
      getLsbD_vbyte x _ (Nat.mod_lt _ (by decide)), show 8 * ((i - 1) / 8) + (i - 1) % 8 + 1 = i by omega]
    simp [hi]
  · rw [pt_bitsOf_above _ (by rw [vbytes_length]; omega) h128]
    simp [hi]

/-- Settles O12: each packed byte and each unpacked bit by its point, then the two composed. -/
theorem allPayloadPacksPointsInOrder : Obligations.AllPayloadPacksPointsInOrder := by
  refine ⟨fun x m k i hk hi => ?_, vbytes_length, fun p i hp h1 hi => ?_, fun p i h h128 => pt_bitsOf_above p h h128,
    fun x e i _ h1 h128 => ?_⟩
  · rw [getElem?_vbytes x hk, Option.map_some, getLsbD_vbyte x k hi]
  · have hk : (i - 1) / 8 < p.length := by omega
    rw [pt_bitsOf p h1 (by omega), List.getD_eq_getElem _ _ hk, List.getElem?_eq_getElem hk]
    rfl
  · rw [pt_bitsOf_vbytes x _ h1 h128, show 8 * (4 + 2 * e) = 32 + 16 * e by omega]

end Sys2Proof.Machine
end

section
/-! Reception of bytes and frames (spec/40_frame_codec.md R135, R137 to R139, R141): what RXB does in each case, that a
completed frame is its row's instruction, and the report of a frame that fails decode. -/

namespace Sys2Proof.Machine

/-! ## RXB, case by case -/

theorem exec_rxb_of_failed {s : State} (hl : s.lstate = .failed) (sop : Bool) (b : Byte) :
    exec (.rxb sop b) s = .next s := by
  rw [exec, execRxb, if_pos hl]

/-- A byte joins the buffer unless it starts a frame over a partial one (R141). -/
theorem exec_rxb_joins {s : State} {sop : Bool} (hl : s.lstate ≠ .failed) (hs : sop = true → s.asm = [])
    (b : Byte) : exec (.rxb sop b) s = .next (s.acceptByte b) := by
  have hjoin : ¬ (sop && decide (0 < s.asm.length)) = true := by
    intro h
    obtain ⟨hsop, hlen⟩ := Bool.and_eq_true_iff.1 h
    simp [hs hsop] at hlen
  rw [exec, execRxb, if_neg hl, if_neg hjoin]

/-- A byte with SOP over a partial frame drops the partial frame first (R141). -/
theorem exec_rxb_restarts {s : State} (hl : s.lstate ≠ .failed) (ha : s.asm ≠ []) (b : Byte) :
    exec (.rxb true b) s = .next (s.dropPartial.acceptByte b) := by
  have hrestart : (true && decide (0 < s.asm.length)) = true := by simpa using List.length_pos_iff.2 ha
  rw [exec, execRxb, if_neg hl, if_pos hrestart]

theorem acceptByte_of_partial {s : State} {b : Byte} (h : (s.asm ++ [b]).length ≠ announcedLen (s.asm ++ [b])) :
    s.acceptByte b = { s with asm := s.asm ++ [b], asmCnt := 0 } := if_neg h

/-- The step that completes a frame leaves no trace of the buffered bytes (R141). -/
theorem acceptByte_of_complete {s : State} {b : Byte} (h : (s.asm ++ [b]).length = announcedLen (s.asm ++ [b])) :
    s.acceptByte b = s.completeFrame (s.asm ++ [b]) := by
  rcases acceptByte_cases s b with ⟨-, e⟩ | ⟨hne, -⟩
  · exact e
  · exact absurd h hne

theorem receiveWhole_of_failed {s : State} (hl : s.lstate = .failed) (f : List Byte) : s.receiveWhole f = s := if_pos hl

theorem receiveWhole_of_not_failed {s : State} (hl : s.lstate ≠ .failed) (f : List Byte) :
    s.receiveWhole f = s.completeFrame f := if_neg hl

/-- Settles O18: a byte short of the announced length is only buffered. -/
theorem rxbBuffersAPartialFrame : Obligations.RxbBuffersAPartialFrame := by
  intro s sop b h rest hl hs hbuf hlen
  have hpartial : (s.asm ++ [b]).length ≠ announcedLen (s.asm ++ [b]) := by
    rw [hbuf, announcedLen_cons, List.length_cons]
    omega
  rw [exec_rxb_joins hl hs, acceptByte_of_partial hpartial]

/-! ## The frames as instructions -/

/-- What a frame row means is what its bytes do, received whole (R141). -/
theorem exec_of_encode_frame {i : Instr} {f : List Byte} (h : encode i = .frame f) (s : State) :
    exec i s = .next (s.receiveWhole f) := by
  cases i with
  | recallFrame c => cases h; rfl
  | updateFrame u c => cases h; rfl
  | allFrame p c => cases h; rfl
  | _ => cases h

/-- A frame row is as long as its header announces (R99). -/
theorem length_of_encode_frame {i : Instr} {f : List Byte} (hi : i.wellFormed = true) (h : encode i = .frame f) :
    f.length = announcedLen f := by
  cases i with
  | recallFrame c => cases h; rfl
  | updateFrame u c => cases h; rfl
  | allFrame p c =>
    cases h
    have hp : p.length ≤ 31 := of_decide_eq_true hi
    have hn : (BitVec.ofNat 5 p.length).toNat = p.length := by
      rw [BitVec.toNat_ofNat]
      omega
    simp [announcedLen, hn]
  | _ => cases h

/-- Settles O5: the bytes of a row are as many as its header announces, so the byte completes the frame, and in every
LinkState the frame so completed is the row's. -/
theorem completedFrameRunsItsInstruction : Obligations.CompletedFrameRunsItsInstruction := by
  intro s b i hdec
  obtain ⟨hi, henc⟩ := encode_of_decodeFrameRow hdec
  rw [exec_of_encode_frame henc]
  by_cases hl : s.lstate = .failed
  · rw [exec_rxb_of_failed hl, receiveWhole_of_failed hl]
  · rw [exec_rxb_joins (sop := false) hl nofun, acceptByte_of_complete (length_of_encode_frame hi henc),
      receiveWhole_of_not_failed hl]

/-- Settles O17: RXB and the three frame rows all stop at the LinkState. -/
theorem failedDropsReception : Obligations.FailedDropsReception := by
  intro s sop b u c p hl
  have hframe {i : Instr} {f : List Byte} (henc : encode i = .frame f) : exec i s = .next s := by
    rw [exec_of_encode_frame henc, receiveWhole_of_failed hl]
  exact ⟨exec_rxb_of_failed hl sop b, hframe rfl, hframe rfl, hframe rfl⟩

/-! ## The reports of reception -/

/-- A report word as a number: the code above the 24 bits of INFO (R320). -/
theorem reportWord_eq_ofNat (code : ReportCode) (info : Info) :
    reportWord code info = BitVec.ofNat 32 (2 ^ 24 * code.code.toNat + info.toNat) := by
  have hcode := code.code.isLt
  have hinfo := info.isLt
  have hhigh : (code.code.setWidth 32 <<< 24).toNat = code.code.toNat <<< 24 := by
    rw [BitVec.toNat_shiftLeft, BitVec.toNat_setWidth, Nat.shiftLeft_eq, Nat.shiftLeft_eq]
    omega
  apply BitVec.eq_of_toNat_eq
  rw [reportWord, BitVec.toNat_or, hhigh, BitVec.toNat_setWidth_of_le (by decide),
    ← Nat.shiftLeft_add_eq_or_of_lt hinfo, Nat.shiftLeft_eq, BitVec.toNat_ofNat]
  omega

theorem report_eq_noteWord_of_info {code : ReportCode} {info : Info} {n : Nat} (hinfo : info.toNat = n) (s : State) :
    s.report code info = s.noteWord (2 ^ 24 * code.code.toNat + n) :=
  report_eq_noteWord (hinfo ▸ reportWord_eq_ofNat code info) s

theorem countInfo_toNat {n : Nat} (h : n < 2 ^ 24) : (countInfo n).toNat = n := by
  rw [countInfo, BitVec.toNat_ofNat, Nat.mod_eq_of_lt h]

/-- `info(F)`: the header byte under the frame's length (R141). -/
theorem frameInfo_toNat (h : Byte) {rest : List Byte} (hlen : rest.length ≤ 32) :
    (frameInfo (h :: rest)).toNat = 256 * (rest.length + 1) + h.toNat := by
  have hhigh : (countInfo (h :: rest).length <<< 8).toNat = (rest.length + 1) <<< 8 := by
    rw [BitVec.toNat_shiftLeft, List.length_cons, countInfo_toNat (by omega), Nat.shiftLeft_eq]
    omega
  rw [frameInfo, List.headD_cons, BitVec.toNat_or, hhigh, zext24, BitVec.toNat_setWidth_of_le (by decide), Nat.or_comm,
    ← Nat.shiftLeft_add_eq_or_of_lt h.isLt, Nat.shiftLeft_eq]
  omega

/-- A report reads the queue alone, so it may come before or after ASM is emptied. -/
theorem clearAsm_noteWord (s : State) (w : Nat) : s.clearAsm.noteWord w = (s.noteWord w).clearAsm := by
  cases h : hasRoom s.rptq.length s.params.rptqDepth <;> simp [State.noteWord, State.clearAsm, h]

theorem noteWord_failCnt (s : State) (w : Nat) : (s.noteWord w).failCnt = s.failCnt := by
  unfold State.noteWord
  split <;> rfl

/-- The number of the report of a decode error, INFO 0 (R321). -/
def DecodeError.base : DecodeError → Nat
  | .checksumFailure => 0x10000000
  | .invalidMessageType => 0x11000000
  | .invalidMessageLength => 0x12000000

theorem DecodeError.code_toNat (e : DecodeError) : 2 ^ 24 * e.report.code.toNat = e.base := by cases e <;> rfl

/-- A frame that fails decode: its error, header and length reported and counted, ASM empty (R141, R321). -/
theorem completeFrame_of_error {s : State} {h : Byte} {rest : List Byte} {e : DecodeError} {w : Nat}
    (hdec : codecDecode (h :: rest) s.sess.euc.toNat = .error e) (hlen : rest.length ≤ 32)
    (hw : e.base + 256 * (rest.length + 1) + h.toNat = w) :
    s.completeFrame (h :: rest) = { s.noteWord w with failCnt := inc s.failCnt, asm := [], asmCnt := 0 } := by
  simp only [State.completeFrame, hdec]
  rw [report_eq_noteWord_of_info (frameInfo_toNat h hlen), e.code_toNat, ← Nat.add_assoc, hw, clearAsm_noteWord,
    ← noteWord_failCnt s]
  rfl

/-- The same of a frame row (R137 to R139, R141). -/
theorem exec_frame_of_error {s : State} {i : Instr} {h : Byte} {rest : List Byte} {e : DecodeError} {w : Nat}
    (hl : s.lstate ≠ .failed) (henc : encode i = .frame (h :: rest))
    (hdec : codecDecode (h :: rest) s.sess.euc.toNat = .error e) (hlen : rest.length ≤ 32)
    (hw : e.base + 256 * (rest.length + 1) + h.toNat = w) :
    exec i s = .next { s.noteWord w with failCnt := inc s.failCnt, asm := [], asmCnt := 0 } := by
  rw [exec_of_encode_frame henc, receiveWhole_of_not_failed hl, completeFrame_of_error hdec hlen hw]

/-- Settles O19: the partial frame's length reported, and the byte alone in ASM, since no frame is one byte long. -/
theorem sopDropsThePartialFrame : Obligations.SopDropsThePartialFrame := by
  intro s b hl ha hlen
  have hpartial : (s.dropPartial.asm ++ [b]).length ≠ announcedLen (s.dropPartial.asm ++ [b]) := by
    rw [dropPartial_asm, List.nil_append, announcedLen_cons, List.length_singleton]
    omega
  have hcode : 2 ^ 24 * ReportCode.incompleteMessage.code.toNat = 0x14000000 := rfl
  rw [exec_rxb_restarts hl ha, acceptByte_of_partial hpartial, dropPartial_asm, State.dropPartial,
    report_eq_noteWord_of_info (countInfo_toNat (n := s.asm.length) (by omega)), hcode, ← noteWord_failCnt s]
  rfl

/-- Settles O20: the last announced byte completes the frame, and decode's checks in their order name its error. -/
theorem rxbReportsAFrameThatFailsDecode : Obligations.RxbReportsAFrameThatFailsDecode := by
  intro s sop b h rest hl hs hbuf hlen
  have hcomplete : (s.asm ++ [b]).length = announcedLen (s.asm ++ [b]) := by
    rw [hbuf, announcedLen_cons, List.length_cons]
    omega
  have hrest : rest.length ≤ 32 := by omega
  rw [exec_rxb_joins hl hs, acceptByte_of_complete hcomplete, hbuf]
  refine ⟨fun hsum => ?_, fun hsum h1 h4 h7 => ?_, fun hsum hn => ?_⟩
  · exact congrArg Host.Outcome.next (completeFrame_of_error (codecDecode_of_bad_sum _ hsum) hrest rfl)
  · have htype (t : MsgType) : hdrType h ≠ t.code := by
      rw [ne_eq, hdrType_eq_iff]
      cases t with
      | msgRecall => exact h4
      | msgUpdate => exact h7
      | msgAll => exact h1
    exact congrArg Host.Outcome.next (completeFrame_of_error (codecDecode_of_bad_type _ hsum htype) hrest rfl)
  · obtain ⟨t, ht, hne⟩ :
        ∃ t : MsgType, h.toNat / 32 = t.code.toNat ∧ h.toNat % 32 ≠ expectedLen t s.sess.euc.toNat := by
      rcases hn with ⟨ht, hne⟩ | ⟨ht, hne⟩ | ⟨ht, hne⟩
      · exact ⟨.msgAll, ht, hne⟩
      · exact ⟨.msgRecall, ht, hne⟩
      · exact ⟨.msgUpdate, ht, hne⟩
    have hdec := codecDecode_of_bad_length hsum ((hdrType_eq_iff h _).2 ht) hne
    exact congrArg Host.Outcome.next (completeFrame_of_error hdec hrest rfl)

/-! ## Frame rows that fail decode -/

theorem recallHeader_toNat : (packHeader typeRecall 0).toNat = 0x80 := packHeader_toNat _ _

theorem updateHeader_toNat : (packHeader typeUpdate 1).toNat = 0xE1 := packHeader_toNat _ _

theorem allHeader_toNat {n : Nat} (h : n ≤ 31) : (packHeader typeAll (BitVec.ofNat 5 n)).toNat = 0x20 + n := by
  rw [packHeader_toNat, BitVec.toNat_ofNat, Nat.mod_eq_of_lt (by omega)]
  rfl

theorem sum_allFrame {p : List Byte} (h : p.length ≤ 31) (c : Byte) :
    ((packHeader typeAll (BitVec.ofNat 5 p.length) :: (p ++ [c])).map BitVec.toNat).sum =
      0x20 + p.length + (p.map BitVec.toNat).sum + c.toNat := by
  simp [allHeader_toNat h, Nat.add_assoc]

/-- An ALL row that fails decode reports its error with its own header and length. -/
theorem exec_allFrame_of_error {s : State} {p : List Byte} {c : Byte} {e : DecodeError} {w : Nat}
    (hl : s.lstate ≠ .failed) (hp : p.length ≤ 31)
    (hdec : codecDecode (packHeader typeAll (BitVec.ofNat 5 p.length) :: (p ++ [c])) s.sess.euc.toNat = .error e)
    (hw : e.base + 0x20 + 256 * (p.length + 2) + p.length = w) :
    exec (.allFrame p c) s = .next { s.noteWord w with failCnt := inc s.failCnt, asm := [], asmCnt := 0 } := by
  subst hw
  have hlen : (p ++ [c]).length = p.length + 1 := by simp
  have hheader := allHeader_toNat hp
  exact exec_frame_of_error hl rfl hdec (by omega) (by omega)

/-- Settles O21: the sum and the length of a frame row are read from its bytes, the header's among them. -/
theorem badFramesOnlyReport : Obligations.BadFramesOnlyReport := by
  intro s u c p hl
  refine ⟨fun hc => ?_, fun hsum => ?_, fun hp hsum => ?_, fun hp hn hsum => ?_⟩
  · have hbad : (([packHeader typeRecall 0, c] : List Byte).map BitVec.toNat).sum % 256 ≠ 0 := by
      have hlt := c.isLt
      have hne : c.toNat ≠ 0x80 := fun e => hc (BitVec.eq_of_toNat_eq e)
      simp only [List.map_cons, List.map_nil, List.sum_cons, List.sum_nil, recallHeader_toNat]
      omega
    refine exec_frame_of_error hl rfl (codecDecode_of_bad_sum _ hbad) (Nat.le_of_ble_eq_true rfl) ?_
    simp only [DecodeError.base, recallHeader_toNat, List.length_cons, List.length_nil, Nat.reduceAdd, Nat.reduceMul]
  · have hbad : (([packHeader typeUpdate 1, u, c] : List Byte).map BitVec.toNat).sum % 256 ≠ 0 := by
      simp only [List.map_cons, List.map_nil, List.sum_cons, List.sum_nil, updateHeader_toNat]
      omega
    refine exec_frame_of_error hl rfl (codecDecode_of_bad_sum _ hbad) (Nat.le_of_ble_eq_true rfl) ?_
    simp only [DecodeError.base, updateHeader_toNat, List.length_cons, List.length_nil, Nat.reduceAdd, Nat.reduceMul]
  · rw [← sum_allFrame hp] at hsum
    exact exec_allFrame_of_error hl hp (codecDecode_of_bad_sum _ hsum) (by simp only [DecodeError.base, Nat.reduceAdd])
  · rw [← sum_allFrame hp] at hsum
    have hlen : (packHeader typeAll (BitVec.ofNat 5 p.length)).toNat % 32 ≠ expectedLen .msgAll s.sess.euc.toNat := by
      rw [allHeader_toNat hp, show (0x20 + p.length) % 32 = p.length by omega]
      exact hn
    exact exec_allFrame_of_error hl hp (codecDecode_of_bad_length hsum (hdrType_packHeader _ _) hlen)
      (by simp only [DecodeError.base, Nat.reduceAdd])

end Sys2Proof.Machine
end

section
/-! The vector store's laws (spec/41_vector_store.md R180 to R182, R188): what a diff lists, and what folding `setpt` or
`apply` over it gives. -/

namespace Sys2Proof.Machine

/-! ## The list of differences (R180) -/

theorem diff_map_fst (a b : VecReg) (n : Nat) :
    (diff a b n).map Prod.fst = ((List.range n).filter fun k => pt a (k + 1) ≠ pt b (k + 1)).map (· + 1) := by
  rw [diff, List.map_filterMap, ← List.filterMap_eq_map, List.filterMap_filter]
  congr 1
  funext k
  by_cases h : pt a (k + 1) = pt b (k + 1) <;> simp [h]

/-- The points of a diff ascend, since the indices it is filtered from do. -/
theorem diff_points_ascend (a b : VecReg) (n : Nat) : ((diff a b n).map Prod.fst).Pairwise (· < ·) := by
  rw [diff_map_fst]
  exact (List.pairwise_lt_range.filter _).map _ fun _ _ h => Nat.succ_lt_succ h

theorem diff_length_le (a b : VecReg) (n : Nat) : (diff a b n).length ≤ n :=
  (List.length_filterMap_le _ _).trans_eq List.length_range

theorem diff_self (x : VecReg) (n : Nat) : diff x x n = [] := by simp [diff]

/-- A listed point exists: above 128 no two vectors differ. -/
theorem le_128_of_mem_diff {a b : VecReg} {n : Nat} {p : Nat × Bool} (h : p ∈ diff a b n) : p.1 ≤ 128 := by
  obtain ⟨-, -, hne, -⟩ := (mem_diff a b n p.1 p.2).1 h
  by_contra habove
  exact hne (by rw [pt_above a (by omega), pt_above b (by omega)])

theorem mem_diff_points {a b : VecReg} {n i : Nat} :
    i ∈ (diff a b n).map Prod.fst ↔ 1 ≤ i ∧ i ≤ n ∧ pt a i ≠ pt b i := by
  simp [mem_diff]

/-- Settles O13: the pairs of a diff, their order and their number. -/
theorem diffIsTheAscendingListOfDifferences : Obligations.DiffIsTheAscendingListOfDifferences :=
  fun a b n => ⟨mem_diff a b n, diff_points_ascend a b n, diff_length_le a b n⟩

/-! ## Writing listed points -/

/-- Every pair of the list names a point of the register and gives it B's value. -/
def TakenFrom (b : VecReg) (l : List (Nat × Bool)) : Prop := ∀ p ∈ l, 1 ≤ p.1 ∧ p.1 ≤ 128 ∧ p.2 = pt b p.1

theorem diff_takenFrom (a b : VecReg) (n : Nat) : TakenFrom b (diff a b n) := by
  intro p hp
  obtain ⟨h1, -, -, hv⟩ := (mem_diff a b n p.1 p.2).1 hp
  exact ⟨h1, le_128_of_mem_diff hp, hv⟩

/-- The vector with every pair of the list written. -/
def setPoints (l : List (Nat × Bool)) (a : VecReg) : VecReg := l.foldl (fun x p => setpt x p.1 p.2) a

/-- Writing points of B gives B's value at the points listed and keeps the others. -/
theorem pt_setPoints {b : VecReg} {l : List (Nat × Bool)} (hl : TakenFrom b l) (a : VecReg) {i : Nat} (h1 : 1 ≤ i) :
    pt (setPoints l a) i = if i ∈ l.map Prod.fst then pt b i else pt a i := by
  induction l generalizing a with
  | nil => rfl
  | cons p l ih =>
    obtain ⟨hp1, hp128, hv⟩ := hl p (by simp)
    have htail : TakenFrom b l := fun q hq => hl q (by simp [hq])
    have hstep : setPoints (p :: l) a = setPoints l (setpt a p.1 p.2) := rfl
    rw [hstep, ih htail, pt_setpt a p.1 i p.2 hp1 h1 hp128]
    by_cases hip : i = p.1
    · simp [hip, hv]
    · simp [hip]

/-- Writing a diff into its first vector makes the points 1 to n the second's (R188). -/
theorem pt_setPoints_diff (a b : VecReg) (n : Nat) {i : Nat} (h1 : 1 ≤ i) :
    pt (setPoints (diff a b n) a) i = if i ≤ n then pt b i else pt a i := by
  rw [pt_setPoints (diff_takenFrom a b n) a h1]
  simp only [mem_diff_points]
  by_cases heq : pt a i = pt b i
  · simp [heq]
  · simp [h1, heq]

/-- Folding `apply` over points 1 to n fails at none of them and writes all but point 16 (R181). -/
theorem foldl_applyPoint {l : List (Nat × Bool)} {n : Nat} (hl : ∀ p ∈ l, 1 ≤ p.1 ∧ p.1 ≤ n) (a : VecReg) :
    l.foldl (fun (x : Except StoreError VecReg) p => x.bind fun x => (applyPoint x p.1 p.2 n).map Prod.fst) (.ok a) =
      .ok (setPoints (l.filter fun p => p.1 ≠ healthPoint) a) := by
  induction l generalizing a with
  | nil => rfl
  | cons p l ih =>
    obtain ⟨hp1, hpn⟩ := hl p (by simp)
    have htail : ∀ q ∈ l, 1 ≤ q.1 ∧ q.1 ≤ n := fun q hq => hl q (by simp [hq])
    rcases applyPoint_cases a p.1 p.2 n with ⟨hout, -⟩ | ⟨-, -, h16, e⟩ | ⟨-, -, h16, e⟩
    · omega
    · rw [List.filter_cons_of_neg (by simpa using h16), ← ih htail a, List.foldl_cons, Except.bind, e]
      rfl
    · rw [List.filter_cons_of_pos (by simpa using h16), List.foldl_cons, Except.bind, e]
      exact ih htail _

/-- Applying a diff makes the points 1 to n but 16 the second vector's (R188). -/
theorem pt_setPoints_diff_but_health (a b : VecReg) (n : Nat) {i : Nat} (h1 : 1 ≤ i) :
    pt (setPoints ((diff a b n).filter fun p => p.1 ≠ healthPoint) a) i =
      if i ≤ n ∧ i ≠ healthPoint then pt b i else pt a i := by
  have hfrom : TakenFrom b ((diff a b n).filter fun p => p.1 ≠ healthPoint) :=
    fun p hp => diff_takenFrom a b n p (List.mem_of_mem_filter hp)
  have hmem : i ∈ ((diff a b n).filter fun p => p.1 ≠ healthPoint).map Prod.fst ↔
      (1 ≤ i ∧ i ≤ n ∧ pt a i ≠ pt b i) ∧ i ≠ healthPoint := by
    rw [← mem_diff_points]
    simp
  rw [pt_setPoints hfrom a h1]
  simp only [hmem]
  by_cases heq : pt a i = pt b i
  · simp [heq]
  · simp [h1, heq]

/-- After `replace`, only point 16 can still differ (R188). -/
theorem diff_replaceVec (x b : VecReg) (n : Nat) :
    diff (replaceVec x b n) b n = [] ∨ diff (replaceVec x b n) b n = [(healthPoint, pt b healthPoint)] := by
  have honly : ∀ p ∈ diff (replaceVec x b n) b n, p = (healthPoint, pt b healthPoint) := by
    intro p hp
    obtain ⟨h1, hn, hne, hv⟩ := (mem_diff _ b n p.1 p.2).1 hp
    rw [pt_replaceVec x b n p.1 h1 (le_128_of_mem_diff hp)] at hne
    have h16 : p.1 = healthPoint := by
      by_contra h
      exact hne (if_pos ⟨hn, h⟩)
    exact Prod.ext h16 (h16 ▸ hv)
  have hnodup : (diff (replaceVec x b n) b n).Nodup :=
    .of_map Prod.fst ((diff_points_ascend _ b n).imp Nat.ne_of_lt)
  rw [List.eq_replicate_of_mem honly, List.nodup_replicate] at hnodup
  rw [List.eq_replicate_of_mem honly]
  rcases Nat.le_one_iff_eq_zero_or_eq_one.1 hnodup with h | h <;> simp [h]

/-- Settles O14: each law of R188 from what a fold over a diff writes. -/
theorem diffApplyReplaceLaws : Obligations.DiffApplyReplaceLaws := by
  refine ⟨diff_self, fun a b n i _ h1 _ => pt_setPoints_diff a b n h1, fun a b n i _ h1 _ => ?_,
    fun x b n _ => diff_replaceVec x b n⟩
  have hrange : ∀ p ∈ diff a b n, 1 ≤ p.1 ∧ p.1 ≤ n := fun p hp =>
    have ⟨hp1, hpn, _⟩ := (mem_diff a b n p.1 p.2).1 hp
    ⟨hp1, hpn⟩
  rw [foldl_applyPoint hrange]
  exact congrArg Except.ok (pt_setPoints_diff_but_health a b n h1)

end Sys2Proof.Machine
end

section
/-! `emit_diff` in numbers (spec/41_vector_store.md R186, R187, R358): each pass as the Update's bytes queued or
dropped, and the whole loop with room for every frame and with room for none. -/

namespace Sys2Proof.Machine

/-! ## One Update -/

/-- The Update frame, header, payload and the byte that makes the sum 0 mod 256 (R95, R98, R138). -/
theorem frameBytes_update (i : Nat) (b : Bool) : frameBytes .msgUpdate [updByte i b] = updateBytes i b := by
  have hval : (updByte i b).toNat = 128 * b.toNat + i % 128 := updByte_toNat i b
  have hpayload : updByte i b = BitVec.ofNat 8 (128 * b.toNat + i % 128) := by
    rw [← hval, BitVec.ofNat_toNat, BitVec.setWidth_eq]
  have hcheck : checksum [0xE1, updByte i b] = BitVec.ofNat 8 (512 - (0xE1 + (128 * b.toNat + i % 128))) := by
    rw [← hval]
    simp only [checksum, sum8_cons, sum8_nil]
    bv_omega
  have hheader : packHeader MsgType.msgUpdate.code (BitVec.ofNat 5 [updByte i b].length) = 0xE1 :=
    BitVec.eq_of_toNat_eq updateHeader_toNat
  have hframe : frameBytes .msgUpdate [updByte i b] = [0xE1, updByte i b, checksum [0xE1, updByte i b]] := by
    rw [frameBytes, hheader]
    rfl
  rw [hframe, hcheck, hpayload]
  rfl

/-- The TXQ_OVERFLOW word of an Update, type 7 (R321). -/
theorem report_txqOverflow_update (s : State) : s.report .txqOverflow (zext24 typeUpdate) = s.noteWord 0x70000007 :=
  report_eq_noteWord rfl s

/-- A dropped Update: reported and counted (R186). -/
def State.dropUpdate (s : State) : State := { s.noteWord 0x70000007 with failCnt := inc s.failCnt }

/-- With room, a pass of `emit_diff` queues the Update's bytes and records the point in R (R187). -/
theorem emitUpdate_of_room {s : State} (h : hasRoom s.txq.length s.params.txqDepth = true) (p : Nat × Bool) :
    s.emitUpdate p =
      { s with txq := s.txq ++ [updateBytes p.1 p.2], txidleCnt := 0, r := setpt s.r p.1 p.2 } := by
  rcases emitUpdate_cases s p with ⟨-, e⟩ | ⟨hfull, -⟩
  · rw [e, frameBytes_update]
  · simp [hfull] at h

/-- On a full TXQ a pass of `emit_diff` drops the Update (R187). -/
theorem emitUpdate_of_full {s : State} (h : hasRoom s.txq.length s.params.txqDepth = false) (p : Nat × Bool) :
    s.emitUpdate p = s.dropUpdate := by
  rcases emitUpdate_cases s p with ⟨hroom, -⟩ | ⟨-, e⟩
  · simp [hroom] at h
  · rw [e, report_txqOverflow_update, State.countFailure, noteWord_failCnt]
    rfl

/-- A pass of the loop in the model and in the spec's numbers (R187). -/
theorem emitUpdate_eq_noteUpdate (s : State) (p : Nat × Bool) : s.emitUpdate p = s.noteUpdate p := by
  cases h : hasRoom s.txq.length s.params.txqDepth
  · rw [emitUpdate_of_full h]
    simp [State.noteUpdate, State.noteFrame, State.dropUpdate, h]
  · rw [emitUpdate_of_room h]
    simp [State.noteUpdate, State.noteFrame, h]

/-! ## The loop with room -/

/-- Room for one more frame, from a bound on the queue's depth. -/
theorem hasRoom_of_lt {n : Nat} {depth : Option Nat} (h : ∀ d, depth = some d → n < d) : hasRoom n depth = true := by
  cases depth with
  | none => rfl
  | some d => exact decide_eq_true (h d rfl)

/-- With room for a frame per pair, every pair is queued in order and written to R. -/
theorem foldl_emitUpdate_of_room (l : List (Nat × Bool)) {s : State}
    (hroom : ∀ d, s.params.txqDepth = some d → s.txq.length + l.length ≤ d) :
    l.foldl State.emitUpdate s =
      { s with
        txq := s.txq ++ l.map (fun p => updateBytes p.1 p.2)
        txidleCnt := if l = [] then s.txidleCnt else 0
        r := setPoints l s.r } := by
  induction l generalizing s with
  | nil => simp [setPoints]
  | cons p l ih =>
    have hone : hasRoom s.txq.length s.params.txqDepth = true :=
      hasRoom_of_lt fun d hd => (Nat.lt_add_of_pos_right (Nat.succ_pos _)).trans_le (hroom d hd)
    have hrest : ∀ d, s.params.txqDepth = some d → (s.txq ++ [updateBytes p.1 p.2]).length + l.length ≤ d := by
      intro d hd
      rw [List.length_append, List.length_singleton, Nat.add_assoc, Nat.add_comm 1]
      exact hroom d hd
    rw [List.foldl_cons, emitUpdate_of_room hone, ih hrest]
    simp [setPoints]

theorem emitDiff_of_room {s : State}
    (hroom : ∀ d, s.params.txqDepth = some d → s.txq.length + (diff s.r s.v s.len).length ≤ d) :
    s.emitDiff =
      { s with
        txq := s.txq ++ (diff s.r s.v s.len).map (fun p => updateBytes p.1 p.2)
        txidleCnt := if diff s.r s.v s.len = [] then s.txidleCnt else 0
        r := setPoints (diff s.r s.v s.len) s.r } := foldl_emitUpdate_of_room _ hroom

/-- Settles O15: pass by pass, and with room for every pass, where R takes V's points 1 to L. -/
theorem emitDiffSendsEveryDifference : Obligations.EmitDiffSendsEveryDifference := by
  refine ⟨fun s => ?_, fun s hroom => ?_⟩
  · rw [State.emitDiff, funext₂ emitUpdate_eq_noteUpdate]
  · have hall := emitDiff_of_room hroom
    have hr : s.emitDiff.r = setPoints (diff s.r s.v s.len) s.r := by rw [hall]
    exact ⟨by rw [hr, hall], fun i h1 _ => by rw [hr, pt_setPoints_diff _ _ _ h1]⟩

/-! ## The loop on a full queue -/

theorem noteWord_withFailCnt (s : State) (c : Counter) (w : Nat) :
    State.noteWord { s with failCnt := c } w = { s.noteWord w with failCnt := c } := by
  unfold State.noteWord
  split <;> rfl

theorem foldl_noteWord_withFailCnt (ws : List Nat) (s : State) (c : Counter) :
    ws.foldl State.noteWord { s with failCnt := c } = { ws.foldl State.noteWord s with failCnt := c } := by
  induction ws generalizing s with
  | nil => rfl
  | cons w ws ih => rw [List.foldl_cons, noteWord_withFailCnt, ih, List.foldl_cons]

theorem noteWord_txq (s : State) (w : Nat) : (s.noteWord w).txq = s.txq := by
  unfold State.noteWord
  split <;> rfl

theorem noteWord_params (s : State) (w : Nat) : (s.noteWord w).params = s.params := by
  unfold State.noteWord
  split <;> rfl

/-- Failures counted one at a time or together, up to the same top (R5). -/
theorem sat32_inc_add (c : Counter) (n : Nat) : sat32 ((inc c).toNat + n) = sat32 (c.toNat + (n + 1)) := by
  rw [sat32, sat32, inc_toNat]
  congr 1
  omega

theorem sat32_toNat (c : Counter) : sat32 c.toNat = c := by
  rw [sat32, Nat.min_eq_left (Nat.le_sub_one_of_lt c.isLt), BitVec.ofNat_toNat, BitVec.setWidth_eq]

/-- A full TXQ stays full, so every pair is dropped, reported and counted. -/
theorem foldl_emitUpdate_of_full (l : List (Nat × Bool)) {s : State}
    (hfull : hasRoom s.txq.length s.params.txqDepth = false) :
    l.foldl State.emitUpdate s =
      { (List.replicate l.length 0x70000007).foldl State.noteWord s with
        failCnt := sat32 (s.failCnt.toNat + l.length) } := by
  induction l generalizing s with
  | nil => rw [List.length_nil, Nat.add_zero, sat32_toNat]; rfl
  | cons p l ih =>
    have hstill : hasRoom s.dropUpdate.txq.length s.dropUpdate.params.txqDepth = false := by
      rwa [State.dropUpdate, noteWord_txq, noteWord_params]
    rw [List.foldl_cons, emitUpdate_of_full hfull, ih hstill, State.dropUpdate, foldl_noteWord_withFailCnt,
      sat32_inc_add]
    rfl

/-- Settles O16: the passes over the diff, each a drop. -/
theorem fullQueueKeepsUpdatesPending : Obligations.FullQueueKeepsUpdatesPending :=
  fun _ hfull => foldl_emitUpdate_of_full _ hfull

end Sys2Proof.Machine
end

section
/-! The host's events on the vector store (spec/41_vector_store.md R200 to R202): SETBIT, WRSTG and LOADALL, with their
reports in numbers (R321). -/

namespace Sys2Proof.Machine

/-- Emission in Active, of a state in the LinkState of s. -/
theorem emitIfActive_of_lstate {s t : State} (h : t.lstate = s.lstate) :
    t.emitIfActive = if s.lstate = .active then t.emitDiff else t := by rw [State.emitIfActive, h]

/-! ## INFO fields -/

/-- A field above every set bit of an INFO adds its weight. -/
theorem or_field_toNat {x y : Info} {m n : Nat} (hx : x.toNat = m) (hm : m < 2 ^ n) (hy : 2 ^ n * y.toNat < 2 ^ 24) :
    (x ||| y <<< n).toNat = m + 2 ^ n * y.toNat := by
  have hhigh : (y <<< n).toNat = y.toNat <<< n := by
    rw [BitVec.toNat_shiftLeft, Nat.shiftLeft_eq, Nat.mod_eq_of_lt (by rwa [Nat.mul_comm])]
  rw [BitVec.toNat_or, hx, hhigh, Nat.or_comm, ← Nat.shiftLeft_add_eq_or_of_lt hm, Nat.shiftLeft_eq]
  ring

theorem flagInfo_toNat (b : Bool) : (flagInfo b).toNat = b.toNat := by cases b <;> rfl

/-- INDEX_OUT_OF_RANGE: the index under the origin (R321). -/
theorem indexInfo_toNat {i : Nat} (hi : i < 256) (peer : Bool) : (indexInfo i peer).toNat = i + 256 * peer.toNat := by
  have hpeer := peer.toNat_le
  rw [indexInfo, or_field_toNat (countInfo_toNat (by omega)) hi (by rw [flagInfo_toNat]; omega), flagInfo_toNat]
  rfl

/-- LOCAL_APPLIED: the point, its state and whether it changed (R321). -/
theorem localInfo_toNat {i : Nat} (hi : i < 256) (b changed : Bool) :
    (localInfo i b changed).toNat = 512 * changed.toNat + 256 * b.toNat + i := by
  have hb := b.toNat_le
  have hc := changed.toNat_le
  have hlow := or_field_toNat (y := flagInfo b) (countInfo_toNat (n := i) (by omega)) (n := 8) hi
    (by rw [flagInfo_toNat]; omega)
  rw [localInfo, or_field_toNat hlow (by rw [flagInfo_toNat]; omega) (by rw [flagInfo_toNat]; omega), flagInfo_toNat,
    flagInfo_toNat]
  omega

/-- LENGTH_MISMATCH: the count under NB (R321). -/
theorem lengthInfo_toNat {n nb : Nat} (hn : n < 32) (hnb : nb < 32) : (lengthInfo n nb).toNat = 256 * nb + n := by
  have hcount : (countInfo nb).toNat = nb := countInfo_toNat (by omega)
  rw [lengthInfo, or_field_toNat (countInfo_toNat (by omega)) (by omega) (by omega), hcount]
  omega

/-! ## SETBIT (R200) -/

/-- Outside 1 to L, SETBIT only reports. -/
theorem exec_setbit_outside {s : State} {i : BitVec 8} (hout : i.toNat = 0 ∨ s.len < i.toNat) (b : Bool) :
    exec (.setbit b i) s = .next (s.report .indexOutOfRange (indexInfo i.toNat false)) := by
  rcases applyPoint_cases s.v i.toNat b s.len with ⟨-, e⟩ | ⟨h1, hlen, -⟩ | ⟨h1, hlen, -⟩
  · simp only [exec, execSetbit, e]
  · omega
  · omega

/-- From 1 to L, SETBIT writes its point unless it is 16, reports, and emits. -/
theorem exec_setbit_inside {s : State} {i : BitVec 8} (h1 : 1 ≤ i.toNat) (hlen : i.toNat ≤ s.len) (b : Bool) :
    exec (.setbit b i) s =
      .next (State.emitIfActive
        (State.report { s with v := if i.toNat = 16 then s.v else setpt s.v i.toNat b } .localApplied
          (localInfo i.toNat b (decide (i.toNat ≠ 16) && (pt s.v i.toNat != b))))) := by
  rcases applyPoint_cases s.v i.toNat b s.len with ⟨hout, -⟩ | ⟨-, -, h16, e⟩ | ⟨-, -, h16, e⟩
  · omega
  · have hskip : decide (i.toNat ≠ 16) = false := decide_eq_false (not_not_intro h16)
    simp only [exec, execSetbit, e, if_pos (show i.toNat = 16 from h16), hskip, Bool.false_and]
  · have hwrite : decide (i.toNat ≠ 16) = true := decide_eq_true h16
    simp only [exec, execSetbit, e, if_neg (show i.toNat ≠ 16 from h16), hwrite, Bool.true_and]

/-- Settles O37: the two cases of the index, each with its report word. -/
theorem setbitAppliesAndReports : Obligations.SetbitAppliesAndReports := by
  intro b i s
  have hindex : (indexInfo i.toNat false).toNat = i.toNat := indexInfo_toNat i.isLt false
  refine ⟨fun hout => ?_, fun h1 hlen => ?_⟩
  · rw [exec_setbit_outside hout, report_eq_noteWord_of_info hindex]
    rfl
  · have hcode : 2 ^ 24 * ReportCode.localApplied.code.toNat = 0x33000000 := rfl
    rw [exec_setbit_inside h1 hlen, emitIfActive_of_lstate (report_lstate _ _ _),
      report_eq_noteWord_of_info (localInfo_toNat i.isLt b _), hcode, ← Nat.add_assoc, ← Nat.add_assoc]

/-! ## WRSTG (R201) -/

/-- The points of byte k are the written byte's bits, every other point as it was. -/
theorem pt_setVbyte (x : VecReg) (k : Nat) {i : Nat} (h1 : 1 ≤ i) (h128 : i ≤ 128) (b : Byte) :
    pt (setVbyte x k b) i = if (i - 1) / 8 = k then b.getLsbD ((i - 1) % 8) else pt x i := by
  have hmask : (0xFF#128) = (BitVec.allOnes 8).setWidth 128 := rfl
  have hlt : i - 1 < 128 := by omega
  simp only [pt, setVbyte, hmask, BitVec.getLsbD_or, BitVec.getLsbD_and, BitVec.getLsbD_not, BitVec.getLsbD_shiftLeft,
    BitVec.getLsbD_setWidth, BitVec.getLsbD_allOnes]
  generalize i - 1 = n at hlt
  by_cases hbelow : n < 8 * k
  · simp [hlt, hbelow, show n / 8 ≠ k by omega]
  · by_cases hin : n - 8 * k < 8
    · simp [hlt, hbelow, show n / 8 = k by omega, show n - 8 * k = n % 8 by omega, show n % 8 < 8 by omega,
        show n % 8 < 128 by omega]
    · simp [hlt, hin, BitVec.getLsbD_of_ge b (n - 8 * k) (by omega), show n / 8 ≠ k by omega]

/-- Byte k of the written vector is the byte written, every other byte as it was. -/
theorem vbyte_setVbyte (x : VecReg) (k : Nat) {j : Nat} (hj : j < 16) (b : Byte) :
    vbyte (setVbyte x k b) j = if j = k then b else vbyte x j := by
  apply BitVec.eq_of_getLsbD_eq
  intro m hm
  rw [getLsbD_vbyte _ j hm, pt_setVbyte x k (by omega) (by omega), Nat.add_sub_cancel,
    show (8 * j + m) / 8 = j by omega, show (8 * j + m) % 8 = m by omega, ← getLsbD_vbyte x j hm]
  split <;> rfl

/-- Settles O38: byte K of STG, the one field written. -/
theorem wrstgWritesOneStagingByte : Obligations.WrstgWritesOneStagingByte :=
  fun k b s => ⟨_, rfl, rfl, fun _ hj => vbyte_setVbyte s.stg k.toNat hj b⟩

/-! ## LOADALL (R202) -/

/-- L points are NB bytes (R50). -/
theorem len_eq_mul_nb (s : State) : s.len = 8 * s.nb := by
  rw [State.len, State.nb]
  omega

/-- The first NB bytes of a vector hold its points 1 to L. -/
theorem pt_bitsOf_vbytes_nb (s : State) (x : VecReg) {i : Nat} (h1 : 1 ≤ i) (h128 : i ≤ 128) (hlen : i ≤ s.len) :
    pt (bitsOf (vbytes x s.nb)) i = pt x i := by
  rw [pt_bitsOf_vbytes x _ h1 h128, ← len_eq_mul_nb, decide_eq_true hlen, Bool.true_and]

theorem exec_loadall_mismatch {s : State} {n : BitVec 5} (h : n.toNat ≠ s.nb) :
    exec (.loadall n) s = .next (s.report .lengthMismatch (lengthInfo n.toNat s.nb)) := if_pos h

theorem exec_loadall_match {s : State} {n : BitVec 5} (h : n.toNat = s.nb) :
    exec (.loadall n) s =
      .next (State.emitIfActive { s with v := replaceVec s.v (bitsOf (vbytes s.stg s.nb)) s.len }) :=
  if_neg (not_not_intro h)

/-- Settles O39: `replace` by the first NB bytes of STG, which hold its points 1 to L. -/
theorem loadallCopiesTheStagingVector : Obligations.LoadallCopiesTheStagingVector := by
  intro n s
  refine ⟨fun hne => ?_, fun heq => ⟨replaceVec s.v (bitsOf (vbytes s.stg s.nb)) s.len, fun i h1 h128 => ?_, ?_⟩⟩
  · have heuc := s.sess.euc.isLt
    have hnb : s.nb < 32 := by
      rw [State.nb]
      omega
    have hcode : 2 ^ 24 * ReportCode.lengthMismatch.code.toNat = 0x32000000 := rfl
    rw [exec_loadall_mismatch hne, report_eq_noteWord_of_info (lengthInfo_toNat n.isLt hnb), hcode, ← Nat.add_assoc]
  · rw [pt_replaceVec _ _ _ _ h1 h128]
    split
    · next hin => exact (pt_bitsOf_vbytes_nb s s.stg h1 h128 hin.1).trans (if_pos hin).symm
    · next hout => exact (if_neg hout).symm
  · rw [exec_loadall_match heq, emitIfActive_of_lstate rfl]

end Sys2Proof.Machine
end

section
/-! The supervisor's procedures in numbers (spec/42_supervisor.md R220 to R222, R250 to R252): a frame queued or
dropped, the Recall sent, the entry into Failed, each with its report word (R321). -/

namespace Sys2Proof.Machine

/-! ## The transmit queue in numbers -/

/-- TXQ_OVERFLOW: the type code of the dropped frame (R186, R321). -/
theorem report_txqOverflow (s : State) (type : BitVec 3) :
    s.report .txqOverflow (zext24 type) = s.noteWord (0x70000000 + type.toNat) :=
  report_eq_noteWord_of_info (BitVec.toNat_setWidth_of_le (by decide)) s

/-- A frame is queued, or its type code reported and counted (R186). -/
theorem enqueueTx_eq_noteFrame (s : State) (t : MsgType) (p : List Byte) :
    s.enqueueTx (frameBytes t p) =
      (s.noteFrame (frameBytes t p) t.code.toNat, hasRoom s.txq.length s.params.txqDepth) := by
  rcases enqueueTx_cases s (frameBytes t p) with ⟨hroom, e⟩ | ⟨hfull, e⟩
  · simp [e, State.noteFrame, hroom]
  · rw [e, frameBytes_headD, hdrType_packHeader, report_txqOverflow, State.countFailure, noteWord_failCnt]
    simp [State.noteFrame, hfull]

theorem enqueueRecall_eq_noteFrame (s : State) : s.enqueueRecall = s.noteFrame recallBytes 4 := by
  have hbytes : frameBytes .msgRecall [] = recallBytes := by decide
  rw [State.enqueueRecall, enqueueTx_eq_noteFrame, hbytes]
  rfl

/-! ## Entries into the LinkStates -/

/-- `send_recall()` in numbers (R220). -/
theorem sendRecall_eq_noteWord (s : State) :
    s.sendRecall =
      State.noteWord
        { s.noteFrame recallBytes 4 with
          priorFail := false, retryCnt := 0, respCnt := 0, puCnt := 0, lstate := .awaitingRecallResponse }
        0x01000001 := by
  rw [State.sendRecall, enqueueRecall_eq_noteFrame, report_eq_noteWord (n := 0x01000001) rfl]

/-- The STATE word of Failed: the cause above the state (R321). -/
theorem report_state_failed (s : State) (cause : FCause) :
    s.report .state (stateInfo .failed cause) = s.noteWord (0x01000003 + 16 * cause.code.toNat) :=
  report_eq_noteWord (by cases cause <;> rfl) s

/-- `enter_failed(cause)` in numbers (R221). -/
theorem enterFailed_eq_noteWord (s : State) (cause : FCause) :
    s.enterFailed cause =
      State.noteWord
        { s with
          lstate := .failed, fcause := cause, priorFail := s.priorFail || cause.setsPriorFail, asm := [], asmCnt := 0,
          txq := [], puCnt := 0, respCnt := 0 }
        (0x01000003 + 16 * cause.code.toNat) :=
  report_state_failed _ cause

/-- A transmission failure sets PRIOR_FAIL (R23, R221). -/
theorem enterFailed_of_setsPriorFail {cause : FCause} (h : cause.setsPriorFail = true) (s : State) :
    s.enterFailed cause =
      State.noteWord
        { s with
          lstate := .failed, fcause := cause, priorFail := true, asm := [], asmCnt := 0, txq := [], puCnt := 0,
          respCnt := 0 }
        (0x01000003 + 16 * cause.code.toNat) := by
  rw [enterFailed_eq_noteWord, h, Bool.or_true]

/-! ## LDOWN, CLOSE, LIDLE and RXF -/

theorem exec_ldown (s : State) : exec .ldown s = .next (s.failUnlessFailed .linkDown) := rfl

theorem exec_close (s : State) : exec .close s = .next (s.failUnlessFailed .closed) := rfl

theorem failUnlessFailed_of_failed {s : State} (hl : s.lstate = .failed) (cause : FCause) :
    s.failUnlessFailed cause = s := if_pos hl

theorem failUnlessFailed_of_not_failed {s : State} (hl : s.lstate ≠ .failed) (cause : FCause) :
    s.failUnlessFailed cause = s.enterFailed cause := if_neg hl

/-- RXF in numbers, once its word is known (R252). -/
theorem exec_rxf_eq_noteWord {k : TransportFault} {w : Nat}
    (hw : reportWord .transportFault (zext24 k.code) = BitVec.ofNat 32 w) (s : State) :
    exec (.rxf k) s = .next { s.noteWord w with failCnt := inc s.failCnt } := by
  have hrxf : exec (.rxf k) s = .next (s.report .transportFault (zext24 k.code)).countFailure := rfl
  rw [hrxf, report_eq_noteWord hw, State.countFailure, noteWord_failCnt]

/-- Settles O22: the word of each fault, and the count beside it. -/
theorem transportFaultReportedAndCounted : Obligations.TransportFaultReportedAndCounted := by
  intro k s
  cases k <;> exact exec_rxf_eq_noteWord rfl s

/-- Settles O23: `send_recall` in numbers, in the one case that sends. -/
theorem lineIdleMakesAStationRecall : Obligations.LineIdleMakesAStationRecall := by
  intro s
  rw [← sendRecall_eq_noteWord]
  rfl

/-- Settles O24: in Failed both stop at the LinkState, elsewhere both are `enter_failed` with their cause. -/
theorem linkDownAndCloseEnterFailed : Obligations.LinkDownAndCloseEnterFailed := by
  intro s
  rw [exec_ldown, exec_close]
  refine ⟨fun hl => ?_, fun hl => ?_⟩
  · rw [failUnlessFailed_of_failed hl, failUnlessFailed_of_failed hl]
    exact ⟨rfl, rfl⟩
  · rw [failUnlessFailed_of_not_failed hl, failUnlessFailed_of_not_failed hl, enterFailed_of_setsPriorFail rfl,
      enterFailed_eq_noteWord s, FCause.setsPriorFail, Bool.or_false]
    exact ⟨rfl, rfl⟩

end Sys2Proof.Machine
end

section
/-! Valid frames received (spec/42_supervisor.md R222 to R229): the frame each row carries, and what each LinkState does
with it, in numbers. -/

namespace Sys2Proof.Machine

/-! ## From the bytes of a row to its frame -/

/-- Bytes of sum 0, with a header of their type and length and one byte after the payload, decode (R135, R136). -/
theorem codecDecode_of_valid {h : Byte} {rest : List Byte} {t : MsgType} {e : Nat}
    (hsum : ((h :: rest).map BitVec.toNat).sum % 256 = 0) (ht : hdrType h = t.code)
    (hn : (hdrLen h).toNat = expectedLen t e) (hrest : rest.length = expectedLen t e + 1) :
    codecDecode (h :: rest) e =
      .ok ⟨frameBody t (rest.take (expectedLen t e)), t, rest.take (expectedLen t e), rest.getLastD 0⟩ := by
  have hlen : ¬((hdrLen h).toNat ≠ expectedLen t e ∨ rest.length + 1 ≠ (hdrLen h).toNat + 2) := by omega
  rw [codecDecode, if_neg (not_not.2 ((sum8_eq_zero_iff _).2 hsum))]
  simp only [ht, ofCode_code]
  rw [if_neg hlen, hn]

/-- A frame row that decodes is acted on once it counts as heard (R141, R223, R224). -/
theorem exec_frame_of_ok {s : State} {i : Instr} {f : List Byte} {fr : Frame} (hl : s.lstate ≠ .failed)
    (henc : encode i = .frame f) (hdec : codecDecode f s.sess.euc.toNat = .ok fr) :
    exec i s = .next (s.afterValidFrame.dispatchFrame fr) := by
  rw [exec_of_encode_frame henc, receiveWhole_of_not_failed hl]
  simp only [State.completeFrame, hdec]
  rfl

theorem exec_recallFrame_valid {s : State} (hl : s.lstate ≠ .failed) :
    exec (.recallFrame 0x80) s = .next (s.afterValidFrame.dispatchFrame ⟨.bodyRecall, .msgRecall, [], 0x80⟩) := by
  have hsum : (([packHeader typeRecall 0, 0x80] : List Byte).map BitVec.toNat).sum % 256 = 0 := by decide
  exact exec_frame_of_ok hl rfl (codecDecode_of_valid (t := .msgRecall) hsum (hdrType_packHeader _ _) rfl rfl)

theorem exec_updateFrame_valid {s : State} {u c : Byte} (hl : s.lstate ≠ .failed)
    (hsum : (0xE1 + u.toNat + c.toNat) % 256 = 0) :
    exec (.updateFrame u c) s =
      .next (s.afterValidFrame.dispatchFrame ⟨.bodyUpdate (namedPoint u) (namedState u), .msgUpdate, [u], c⟩) := by
  have hbytes : (([packHeader typeUpdate 1, u, c] : List Byte).map BitVec.toNat).sum % 256 = 0 := by
    simp only [List.map_cons, List.map_nil, List.sum_cons, List.sum_nil, updateHeader_toNat]
    omega
  have hdec := codecDecode_of_valid (t := .msgUpdate) (e := s.sess.euc.toNat) hbytes (hdrType_packHeader _ _) rfl rfl
  have hbody : frameBody .msgUpdate [u] = .bodyUpdate (namedPoint u) (namedState u) := by
    rw [← updPoint_eq_namedPoint, ← updState_eq_namedState]
    rfl
  rw [← hbody]
  exact exec_frame_of_ok hl rfl hdec

/-- NB bytes fit an ALL frame, whatever the session (R93). -/
theorem nb_le_31 (s : State) : s.nb ≤ 31 := by
  have heuc := s.sess.euc.isLt
  rw [State.nb]
  omega

theorem exec_allFrame_valid {s : State} {p : List Byte} {c : Byte} (hl : s.lstate ≠ .failed) (hp : p.length = s.nb)
    (hsum : (0x20 + p.length + (p.map BitVec.toNat).sum + c.toNat) % 256 = 0) :
    exec (.allFrame p c) s = .next (s.afterValidFrame.dispatchFrame ⟨.bodyAll (bitsOf p), .msgAll, p, c⟩) := by
  have hle : p.length ≤ 31 := hp ▸ nb_le_31 s
  have hnb : expectedLen .msgAll s.sess.euc.toNat = p.length := hp.symm
  rw [← sum_allFrame hle] at hsum
  have hlen : (hdrLen (packHeader typeAll (BitVec.ofNat 5 p.length))).toNat = p.length := by
    rw [hdrLen_packHeader, BitVec.toNat_ofNat, Nat.mod_eq_of_lt (by omega)]
  have hdec := codecDecode_of_valid (t := .msgAll) (e := s.sess.euc.toNat) hsum (hdrType_packHeader _ _)
    (hlen.trans hnb.symm) (by rw [hnb]; simp)
  rw [hnb] at hdec
  simp only [List.take_left, List.getLastD_concat] at hdec
  exact exec_frame_of_ok hl rfl hdec

/-! ## Recall (R222, R225) -/

/-- `answer_recall()` in numbers. -/
theorem answerRecall_eq_noteFrame (s : State) :
    s.answerRecall =
      if hasRoom s.txq.length s.params.txqDepth then
        { s.noteFrame (frameBytes .msgAll (vbytes s.v s.nb)) 1 with r := s.v }
      else s.noteFrame (frameBytes .msgAll (vbytes s.v s.nb)) 1 := by
  rw [State.answerRecall, enqueueTx_eq_noteFrame]
  rfl

/-- Outside Failed, every LinkState answers a Recall. -/
theorem dispatchFrame_recall {s : State} {fr : Frame} (hl : s.lstate ≠ .failed) (hb : fr.body = .bodyRecall) :
    s.dispatchFrame fr = s.answerRecall := by
  unfold State.dispatchFrame
  rw [hb]
  cases h : s.lstate with
  | failed => exact absurd h hl
  | _ => rfl

/-- Settles O25: the answer to a Recall, from the state the valid frame leaves. -/
theorem recallIsAnsweredWithTheVector : Obligations.RecallIsAnsweredWithTheVector := by
  intro s hl
  rw [exec_recallFrame_valid hl, dispatchFrame_recall (s := s.afterValidFrame) hl rfl, answerRecall_eq_noteFrame]
  rfl

/-! ## Update (R227) -/

theorem namedPoint_bounds (u : Byte) : 1 ≤ namedPoint u ∧ namedPoint u ≤ 128 := by
  rw [namedPoint]
  split <;> omega

/-- INDEX_OUT_OF_RANGE of a peer's point (R321). -/
theorem report_indexOutOfRange_peer (s : State) {i : Nat} (hi : i < 256) :
    s.report .indexOutOfRange (indexInfo i true) = s.noteWord (0x31000100 + i) := by
  have hcode : 2 ^ 24 * ReportCode.indexOutOfRange.code.toNat = 0x31000000 := rfl
  rw [report_eq_noteWord_of_info (indexInfo_toNat hi true), hcode, Bool.toNat_true,
    show 0x31000000 + (i + 256 * 1) = 0x31000100 + i by omega]

/-- BIT_CHANGED: the point under its new state (R321). -/
theorem report_bitChanged (s : State) {i : Nat} (hi : i < 256) (b : Bool) :
    s.report .bitChanged (pointInfo i b) = s.noteWord (0x30000000 + 256 * b.toNat + i) := by
  have hcode : 2 ^ 24 * ReportCode.bitChanged.code.toNat = 0x30000000 := rfl
  have hinfo : (pointInfo i b).toNat = 256 * b.toNat + i := (indexInfo_toNat hi b).trans (Nat.add_comm _ _)
  rw [report_eq_noteWord_of_info hinfo, hcode, Nat.add_assoc]

/-- Writing a point the value it has changes nothing. -/
theorem setpt_of_pt_eq {x : VecReg} {i : Nat} {b : Bool} (h1 : 1 ≤ i) (h : pt x i = b) : setpt x i b = x := by
  by_cases h128 : i ≤ 128
  · refine vec_ext fun j hj _ => ?_
    rw [pt_setpt x i j b h1 hj h128]
    split
    · next hji => rw [hji, h]
    · rfl
  · exact setpt_above x b (Nat.lt_of_not_le h128)

/-- Peer apply in numbers (R227). -/
theorem peerApply_eq_noteWord (s : State) {i : Nat} (h1 : 1 ≤ i) (h128 : i ≤ 128) (b : Bool) :
    s.peerApply i b =
      if s.len < i then s.noteWord (0x31000100 + i)
      else if i = healthPoint then s
      else if pt s.v i = b then { s with r := setpt s.r i b }
      else State.noteWord { s with v := setpt s.v i b, r := setpt s.r i b } (0x30000000 + 256 * b.toNat + i) := by
  rcases peerApply_cases s i b with
    ⟨hout, e⟩ | ⟨-, hin, h16, e⟩ | ⟨-, hin, h16, hsame, e⟩ | ⟨-, hin, h16, hdiff, e⟩
  · rw [e, report_indexOutOfRange_peer _ (by omega), if_pos (by omega)]
  · rw [e, if_neg (Nat.not_lt.2 hin), if_pos h16]
  · rw [e, if_neg (Nat.not_lt.2 hin), if_neg h16, if_pos hsame, setpt_of_pt_eq h1 hsame]
  · rw [e, if_neg (Nat.not_lt.2 hin), if_neg h16, if_neg hdiff, report_bitChanged _ (by omega)]

/-- Settles O26: peer apply in numbers, at the point and state the payload names. -/
theorem updateAppliesInActive : Obligations.UpdateAppliesInActive := by
  intro s u c hl hsum
  obtain ⟨h1, h128⟩ := namedPoint_bounds u
  have hact : s.afterValidFrame.lstate = .active := hl
  rw [exec_updateFrame_valid (by simp [hl]) hsum, State.dispatchFrame, hact]
  exact congrArg Host.Outcome.next (peerApply_eq_noteWord s.afterValidFrame h1 h128 (namedState u))

/-! ## All (R226, R228) -/

/-- The BIT_CHANGED reports of points of the register, in numbers. -/
theorem reportChanges_eq_foldl_noteWord {ds : List (Nat × Bool)} (hds : ∀ p ∈ ds, p.1 < 256) (s : State) :
    s.reportChanges ds = ds.foldl (fun t p => t.noteWord (0x30000000 + 256 * p.2.toNat + p.1)) s :=
  List.foldl_ext _ _ _ fun t p hp => report_bitChanged t (hds p hp) p.2

/-- Peer replace in numbers (R228). -/
theorem peerReplace_eq_afterAll (s : State) (p : List Byte) : s.peerReplace (bitsOf p) = s.afterAll p :=
  reportChanges_eq_foldl_noteWord (fun _ hq => (le_128_of_mem_diff hq).trans_lt (by decide)) _

/-- The recall response in numbers (R226). -/
theorem recallResponse_eq_noteWord (s : State) (p : List Byte) :
    s.recallResponse (bitsOf p) =
      State.noteWord { s.afterAll p with lstate := .active, retryCnt := 0, respCnt := 0 } 0x01000002 := by
  rw [State.recallResponse, peerReplace_eq_afterAll, report_eq_noteWord (n := 0x01000002) rfl]

/-- Settles O27: an All in Active is peer replace, in AwaitingRecallResponse the recall response. -/
theorem allReplacesTheVector : Obligations.AllReplacesTheVector := by
  intro s p c hp hsum
  refine ⟨fun hl => ?_, fun hl => ?_⟩
  · have hact : s.afterValidFrame.lstate = .active := hl
    rw [exec_allFrame_valid (by simp [hl]) hp hsum, State.dispatchFrame, hact, ← peerReplace_eq_afterAll]
  · have hawait : s.afterValidFrame.lstate = .awaitingRecallResponse := hl
    rw [exec_allFrame_valid (by simp [hl]) hp hsum, State.dispatchFrame, hawait, ← recallResponse_eq_noteWord]

/-! ## Unexpected frames (R229) -/

/-- UNEXPECTED_FRAME: the frame's type and the LinkState (R321). -/
theorem unexpectedFrame_eq_noteWord (s : State) (t : MsgType) :
    s.unexpectedFrame t = s.noteWord (0x50000000 + 16 * s.lstate.code.toNat + t.code.toNat) :=
  report_eq_noteWord (by cases t <;> cases s.lstate <;> rfl) s

/-- Settles O28: each of the three cells of R229, with its word. -/
theorem unexpectedFramesOnlyReport : Obligations.UnexpectedFramesOnlyReport := by
  intro s u c p
  refine ⟨fun hsum hl => ?_, fun hsum hl => ?_, fun hp hsum hl => ?_⟩
  · have hpow : s.afterValidFrame.lstate = .poweredUp := hl
    rw [exec_updateFrame_valid (by simp [hl]) hsum, State.dispatchFrame, hpow, unexpectedFrame_eq_noteWord, hpow]
    rfl
  · have hawait : s.afterValidFrame.lstate = .awaitingRecallResponse := hl
    rw [exec_updateFrame_valid (by simp [hl]) hsum, State.dispatchFrame, hawait, unexpectedFrame_eq_noteWord, hawait]
    rfl
  · have hpow : s.afterValidFrame.lstate = .poweredUp := hl
    rw [exec_allFrame_valid (by simp [hl]) hp hsum, State.dispatchFrame, hpow, unexpectedFrame_eq_noteWord, hpow]
    rfl

end Sys2Proof.Machine
end

section
/-! TICK (spec/42_supervisor.md R236 to R245). What T3 can do is said once, as `LinkArm`. T3 neither reads nor writes V,
so T4 may come before it: a TICK is its timers (T1, T2 and T4), then T3 on the state they leave, then T5 and T6. -/

namespace Sys2Proof.Machine

/-! ## Counters and limits in numbers -/

/-- `inc` by arithmetic, the top written out (R5). -/
theorem toNat_inc (c : Counter) : (inc c).toNat = min (c.toNat + 1) 4294967295 := inc_toNat c

theorem expired_iff {c : Counter} {limit : Ticks} : expired c limit = true ↔ limit.toNat ≤ c.toNat := decide_eq_true_iff

theorem expired_inc_iff {c : Counter} {limit : Ticks} :
    expired (inc c) limit = true ↔ limit.toNat ≤ min (c.toNat + 1) 4294967295 := by
  rw [expired_iff, toNat_inc]

/-! ## What T3 can do -/

/-- `LinkArm s t`: T3 can take s to t. One constructor for each branch of R240 to R242, with the
conditions of those that change the link. -/
inductive LinkArm (s : State) : State → Prop
  /-- A Station without a failure before, an Active link in time, or Failed (R239, R240, R242). -/
  | idle : LinkArm s s
  /-- A Controller in PoweredUp counts (R240). -/
  | counts (hl : s.lstate = .poweredUp) (hr : s.sess.role = .controller) : LinkArm s { s with puCnt := inc s.puCnt }
  /-- The Controller's power-up Recall (R240). -/
  | powerUpRecall (hl : s.lstate = .poweredUp) (hr : s.sess.role = .controller)
      (hdue : s.powerupTicks ≤ (inc s.puCnt).toNat) : LinkArm s (State.sendRecall { s with puCnt := inc s.puCnt })
  /-- The Recall of a Station that a failure precedes (R240). -/
  | recallAfterFailure (hl : s.lstate = .poweredUp) (hr : s.sess.role = .station) (hf : s.priorFail = true) :
      LinkArm s s.sendRecall
  /-- The response is awaited one tick more (R241). -/
  | awaits (hl : s.lstate = .awaitingRecallResponse) : LinkArm s { s with respCnt := inc s.respCnt }
  /-- The response timeout, with a retry left (R241). -/
  | retries (hl : s.lstate = .awaitingRecallResponse) :
      LinkArm s (State.enqueueRecall { s.reportResponseTimeout with retryCnt := s.retryCnt + 1, respCnt := 0 })
  /-- The response timeout, with the retries spent (R241). -/
  | responseTimeout (hl : s.lstate = .awaitingRecallResponse) (hto : expired (inc s.respCnt) s.sess.respto = true)
      (hspent : s.sess.retry.toNat ≤ s.retryCnt.toNat) :
      LinkArm s (s.reportResponseTimeout.enterFailed .responseTimeout)
  /-- The poll timeout (R242). -/
  | pollTimeout (hl : s.lstate = .active) (hto : expired s.idleCnt s.sess.pollto = true) :
      LinkArm s ((s.report .pollTimeout 0).enterFailed .pollTimeout)

/-- T3 in AwaitingRecallResponse, the report named (R241). -/
theorem tickAwaiting_eq (s : State) :
    s.tickAwaiting =
      if expired (inc s.respCnt) s.sess.respto then
        if s.retryCnt.toNat < s.sess.retry.toNat then
          State.enqueueRecall { s.reportResponseTimeout with retryCnt := s.retryCnt + 1, respCnt := 0 }
        else s.reportResponseTimeout.enterFailed .responseTimeout
      else { s with respCnt := inc s.respCnt } := by
  simp only [State.tickAwaiting, State.reportResponseTimeout, report_retryCnt, report_sess]

theorem linkArm_tickPoweredUp {s : State} (hl : s.lstate = .poweredUp) : LinkArm s s.tickPoweredUp := by
  unfold State.tickPoweredUp
  split
  · next hr =>
    split
    · next hdue => exact .powerUpRecall hl hr hdue
    · exact .counts hl hr
  · next hr =>
    split
    · next hf => exact .recallAfterFailure hl hr hf
    · exact .idle

theorem linkArm_tickAwaiting {s : State} (hl : s.lstate = .awaitingRecallResponse) : LinkArm s s.tickAwaiting := by
  rw [tickAwaiting_eq]
  split
  · next hto =>
    split
    · exact .retries hl
    · next hspent => exact .responseTimeout hl hto (Nat.not_lt.1 hspent)
  · exact .awaits hl

theorem linkArm_tickActive {s : State} (hl : s.lstate = .active) : LinkArm s s.tickActive := by
  unfold State.tickActive
  split
  · next hto => exact .pollTimeout hl hto
  · exact .idle

theorem linkArm_tickLink (s : State) : LinkArm s s.tickLink := by
  unfold State.tickLink
  split
  · next hl => exact linkArm_tickPoweredUp hl
  · next hl => exact linkArm_tickAwaiting hl
  · next hl => exact linkArm_tickActive hl
  · exact .idle

/-! ## What T3 leaves unchanged -/

/-- T3 reads health's inputs and V no more than it writes them. -/
theorem LinkArm.keeps {s t : State} (h : LinkArm s t) :
    t.v = s.v ∧ t.heard = s.heard ∧ t.idleCnt = s.idleCnt ∧ t.sess = s.sess := by
  cases h <;> simp [State.reportResponseTimeout]

/-- A queued Recall clears TXIDLE_CNT, a dropped one does not touch it (R186). -/
theorem enqueueRecall_txidleCnt (s : State) :
    s.enqueueRecall.txidleCnt = s.txidleCnt ∨ s.enqueueRecall.txidleCnt = 0 := by
  unfold State.enqueueRecall
  rcases enqueueTx_cases s (frameBytes .msgRecall []) with ⟨-, e⟩ | ⟨-, e⟩ <;> rw [e]
  · exact .inr rfl
  · exact .inl (report_txidleCnt _ _ _)

theorem sendRecall_txidleCnt (s : State) : s.sendRecall.txidleCnt = s.enqueueRecall.txidleCnt := report_txidleCnt _ _ _

theorem LinkArm.txidleCnt {s t : State} (h : LinkArm s t) : t.txidleCnt = s.txidleCnt ∨ t.txidleCnt = 0 := by
  have hrep : s.reportResponseTimeout.txidleCnt = s.txidleCnt := report_txidleCnt _ _ _
  cases h with
  | idle => exact .inl rfl
  | counts => exact .inl rfl
  | powerUpRecall => rw [sendRecall_txidleCnt]; exact enqueueRecall_txidleCnt _
  | recallAfterFailure => rw [sendRecall_txidleCnt]; exact enqueueRecall_txidleCnt s
  | awaits => exact .inl rfl
  | retries => rw [← hrep]; exact enqueueRecall_txidleCnt _
  | responseTimeout => exact .inl (by rw [enterFailed_txidleCnt, hrep])
  | pollTimeout => exact .inl (by rw [enterFailed_txidleCnt, report_txidleCnt])

/-- T3 touches ASM only by entering Failed. -/
theorem LinkArm.asm {s t : State} (h : LinkArm s t) :
    (t.asm = s.asm ∧ t.asmCnt = s.asmCnt) ∨ (s.lstate ≠ .failed ∧ t.lstate = .failed ∧ t.asm = [] ∧ t.asmCnt = 0) := by
  cases h with
  | responseTimeout hl => exact .inr (by simp [hl])
  | pollTimeout hl => exact .inr (by simp [hl])
  | _ => exact .inl (by simp [State.reportResponseTimeout])

/-! ## T3 and V -/

/-- The state with another V. -/
def State.withV (s : State) (x : VecReg) : State := { s with v := x }

section

variable (s : State) (x : VecReg)

theorem report_withV (code : ReportCode) (info : Info) :
    (s.withV x).report code info = (s.report code info).withV x := by
  unfold State.report
  rw [apply_ite (State.withV · x)]
  rfl

theorem enqueueRecall_withV : (s.withV x).enqueueRecall = s.enqueueRecall.withV x := by
  unfold State.enqueueRecall State.enqueueTx
  rw [report_withV, apply_ite Prod.fst, apply_ite Prod.fst, apply_ite (State.withV · x)]
  rfl

theorem sendRecall_withV : (s.withV x).sendRecall = s.sendRecall.withV x := by
  unfold State.sendRecall
  rw [enqueueRecall_withV, ← report_withV]
  rfl

theorem enterFailed_withV (cause : FCause) : (s.withV x).enterFailed cause = (s.enterFailed cause).withV x := by
  unfold State.enterFailed
  rw [← report_withV]
  rfl

theorem tickPoweredUp_withV : (s.withV x).tickPoweredUp = s.tickPoweredUp.withV x := by
  have hr : (s.withV x).sess.role = s.sess.role := rfl
  unfold State.tickPoweredUp
  rw [hr]
  split
  · rw [apply_ite (State.withV · x), ← sendRecall_withV]
    rfl
  · rw [apply_ite (State.withV · x), ← sendRecall_withV]
    rfl

theorem reportResponseTimeout_withV : (s.withV x).reportResponseTimeout = s.reportResponseTimeout.withV x :=
  report_withV { s with respCnt := inc s.respCnt } x _ _

theorem tickAwaiting_withV : (s.withV x).tickAwaiting = s.tickAwaiting.withV x := by
  rw [tickAwaiting_eq, tickAwaiting_eq, reportResponseTimeout_withV, apply_ite (State.withV · x),
    apply_ite (State.withV · x), ← enqueueRecall_withV, ← enterFailed_withV]
  rfl

theorem tickActive_withV : (s.withV x).tickActive = s.tickActive.withV x := by
  unfold State.tickActive
  rw [report_withV, enterFailed_withV, apply_ite (State.withV · x)]
  rfl

theorem tickLinkTimeout_withV : (s.withV x).tickLinkTimeout = s.tickLinkTimeout.withV x := by
  unfold State.tickLinkTimeout
  rw [report_withV, apply_ite (State.withV · x), apply_ite (State.withV · x)]
  rfl

theorem tickLink_withV : (s.withV x).tickLink = s.tickLink.withV x := by
  have hl : (s.withV x).lstate = s.lstate := rfl
  unfold State.tickLink
  rw [hl]
  split
  · exact tickPoweredUp_withV s x
  · exact tickAwaiting_withV s x
  · exact tickActive_withV s x
  · rfl

end

/-- T4 gives the same health and the same T3 whichever of the two comes first. -/
theorem tickHealth_tickLink (s : State) : s.tickLink.tickHealth = s.tickHealth.tickLink := by
  have hhealth (t : State) :
      t.tickHealth = t.withV (setpt t.v healthPoint (health t.heard t.idleCnt t.sess.pollto)) := rfl
  obtain ⟨hv, hh, hi, hs⟩ := (linkArm_tickLink s).keeps
  rw [hhealth, hhealth, tickLink_withV, hv, hh, hi, hs]

/-! ## The timers -/

/-- T1, T2 and T4: what every TICK does in every LinkState. -/
def State.tickTimers (s : State) : State := s.tickCounters.tickLinkTimeout.tickHealth

/-- A TICK: the timers, T3, T5 and T6. -/
theorem exec_tick_eq (s : State) : exec .tick s = .next s.tickTimers.tickLink.emitIfActive.tickKeepAlive := by
  rw [exec_tick, State.tickStages, tickHealth_tickLink]
  rfl

/-- T2 touches nothing but ASM, its timer, FAIL_CNT and the reports. -/
theorem tickTimers_shape (s : State) :
    ∃ buf cnt fails reports lost, s.tickTimers =
      { s with
        idleCnt := inc s.idleCnt, txidleCnt := inc s.txidleCnt,
        v := setpt s.v healthPoint (health s.heard (inc s.idleCnt) s.sess.pollto),
        asm := buf, asmCnt := cnt, failCnt := fails, rptq := reports, rptOvf := lost } := by
  unfold State.tickTimers
  rcases tickLinkTimeout_cases s.tickCounters with ⟨-, e⟩ | ⟨-, e⟩ | ⟨-, e⟩ <;> rw [e]
  · exact ⟨_, _, _, _, _, rfl⟩
  · rcases report_cases s.tickCounters .messageTimeout (countInfo s.tickCounters.asm.length) with ⟨-, e⟩ | ⟨-, e⟩ <;>
      rw [e] <;> exact ⟨_, _, _, _, _, rfl⟩
  · exact ⟨_, _, _, _, _, rfl⟩

section

variable (s : State)

@[simp] theorem tickTimers_params : s.tickTimers.params = s.params := by
  obtain ⟨_, _, _, _, _, e⟩ := tickTimers_shape s; rw [e]
@[simp] theorem tickTimers_lstate : s.tickTimers.lstate = s.lstate := by
  obtain ⟨_, _, _, _, _, e⟩ := tickTimers_shape s; rw [e]
@[simp] theorem tickTimers_fcause : s.tickTimers.fcause = s.fcause := by
  obtain ⟨_, _, _, _, _, e⟩ := tickTimers_shape s; rw [e]
@[simp] theorem tickTimers_priorFail : s.tickTimers.priorFail = s.priorFail := by
  obtain ⟨_, _, _, _, _, e⟩ := tickTimers_shape s; rw [e]
@[simp] theorem tickTimers_heard : s.tickTimers.heard = s.heard := by
  obtain ⟨_, _, _, _, _, e⟩ := tickTimers_shape s; rw [e]
@[simp] theorem tickTimers_puCnt : s.tickTimers.puCnt = s.puCnt := by
  obtain ⟨_, _, _, _, _, e⟩ := tickTimers_shape s; rw [e]
@[simp] theorem tickTimers_respCnt : s.tickTimers.respCnt = s.respCnt := by
  obtain ⟨_, _, _, _, _, e⟩ := tickTimers_shape s; rw [e]
@[simp] theorem tickTimers_retryCnt : s.tickTimers.retryCnt = s.retryCnt := by
  obtain ⟨_, _, _, _, _, e⟩ := tickTimers_shape s; rw [e]
@[simp] theorem tickTimers_txq : s.tickTimers.txq = s.txq := by
  obtain ⟨_, _, _, _, _, e⟩ := tickTimers_shape s; rw [e]
@[simp] theorem tickTimers_sess : s.tickTimers.sess = s.sess := by
  obtain ⟨_, _, _, _, _, e⟩ := tickTimers_shape s; rw [e]
@[simp] theorem tickTimers_idleCnt : s.tickTimers.idleCnt = inc s.idleCnt := by
  obtain ⟨_, _, _, _, _, e⟩ := tickTimers_shape s; rw [e]
@[simp] theorem tickTimers_txidleCnt : s.tickTimers.txidleCnt = inc s.txidleCnt := by
  obtain ⟨_, _, _, _, _, e⟩ := tickTimers_shape s; rw [e]
@[simp] theorem tickTimers_v :
    s.tickTimers.v = setpt s.v healthPoint (health s.heard (inc s.idleCnt) s.sess.pollto) := by
  obtain ⟨_, _, _, _, _, e⟩ := tickTimers_shape s; rw [e]
@[simp] theorem tickTimers_len : s.tickTimers.len = s.len := by rw [State.len, tickTimers_sess]; rfl
@[simp] theorem tickTimers_powerupTicks : s.tickTimers.powerupTicks = s.powerupTicks := by
  rw [State.powerupTicks, tickTimers_params]; rfl

end

/-- T4's health by arithmetic (R183). -/
theorem health_inc (heard : Bool) (idle : Counter) (pollto : Ticks) :
    health heard (inc idle) pollto = (heard && decide (min (idle.toNat + 1) 4294967295 < pollto.toNat)) := by
  rw [health, toNat_inc]

/-- T2 in numbers: MESSAGE_TIMEOUT with the length of the partial frame, reported and counted (R238). -/
theorem tickLinkTimeout_eq_noteWord {s : State} (hlen : s.asm.length ≤ 33) :
    s.tickLinkTimeout =
      if s.asm = [] then s
      else if s.sess.linkto.toNat ≤ min (s.asmCnt.toNat + 1) 4294967295 then
        { s.noteWord (0x13000000 + s.asm.length) with failCnt := inc s.failCnt, asm := [], asmCnt := 0 }
      else { s with asmCnt := inc s.asmCnt } := by
  have hcode : 2 ^ 24 * ReportCode.messageTimeout.code.toNat = 0x13000000 := rfl
  have hdiscard : ((s.report .messageTimeout (countInfo s.asm.length)).countFailure).clearAsm =
      { s.noteWord (0x13000000 + s.asm.length) with failCnt := inc s.failCnt, asm := [], asmCnt := 0 } := by
    rw [report_eq_noteWord_of_info (countInfo_toNat (n := s.asm.length) (by omega)), hcode, ← noteWord_failCnt s]
    rfl
  simp only [State.tickLinkTimeout, List.length_eq_zero_iff, expired_inc_iff, hdiscard]

/-- T4 may come before T2 as well. -/
theorem tickHealth_tickLinkTimeout (s : State) : s.tickLinkTimeout.tickHealth = s.tickHealth.tickLinkTimeout := by
  have hhealth (t : State) :
      t.tickHealth = t.withV (setpt t.v healthPoint (health t.heard t.idleCnt t.sess.pollto)) := rfl
  have hkeeps : s.tickLinkTimeout.v = s.v ∧ s.tickLinkTimeout.heard = s.heard ∧
      s.tickLinkTimeout.idleCnt = s.idleCnt ∧ s.tickLinkTimeout.sess = s.sess := by
    rcases tickLinkTimeout_cases s with ⟨-, e⟩ | ⟨-, e⟩ | ⟨-, e⟩ <;> simp [e]
  obtain ⟨hv, hh, hi, hs⟩ := hkeeps
  rw [hhealth, hhealth, tickLinkTimeout_withV, hv, hh, hi, hs]

/-- The state T1, T2 and T4 leave, in numbers. -/
theorem afterTickTimers_eq {s : State} (hlen : s.asm.length ≤ 33) : s.afterTickTimers = s.tickTimers := by
  rw [State.tickTimers, tickHealth_tickLinkTimeout,
    tickLinkTimeout_eq_noteWord (s := s.tickCounters.tickHealth) hlen, State.tickHealth, State.afterTickTimers,
    ← health_inc]
  rfl

end Sys2Proof.Machine
end

section
/-! TICK in each LinkState (spec/42_supervisor.md R236 to R245), in numbers, and what it does in all of them. -/

namespace Sys2Proof.Machine

/-! ## T5 and T6 -/

/-- T5 and T6 serve an Active link alone (R244, R245). -/
theorem emit_keepAlive_of_not_active {s : State} (hl : s.lstate ≠ .active) : s.emitIfActive.tickKeepAlive = s := by
  have hnot : s.keepAliveDue = false := by simp [State.keepAliveDue, hl]
  rw [emitIfActive_of_not_active hl, State.tickKeepAlive, hnot]
  rfl

/-- T6 in Active, in numbers (R245). -/
theorem tickKeepAlive_of_active {s : State} (hl : s.lstate = .active) :
    s.tickKeepAlive =
      if s.sess.role = .controller ∧ s.sess.pollint ≠ 0 ∧ s.sess.pollint.toNat ≤ s.txidleCnt.toNat then
        s.noteFrame recallBytes 4
      else s := by
  have hdue : s.keepAliveDue = true ↔
      s.sess.role = .controller ∧ s.sess.pollint ≠ 0 ∧ s.sess.pollint.toNat ≤ s.txidleCnt.toNat := by
    simp [State.keepAliveDue, hl, expired, and_assoc]
  simp only [State.tickKeepAlive, hdue, enqueueRecall_eq_noteFrame]

@[simp] theorem tickKeepAlive_lstate (s : State) : s.tickKeepAlive.lstate = s.lstate := by
  rcases tickKeepAlive_cases s with e | e <;> simp [e]

@[simp] theorem tickKeepAlive_fcause (s : State) : s.tickKeepAlive.fcause = s.fcause := by
  rcases tickKeepAlive_cases s with e | e <;> simp [e]

@[simp] theorem tickKeepAlive_heard (s : State) : s.tickKeepAlive.heard = s.heard := by
  rcases tickKeepAlive_cases s with e | e <;> simp [e]

@[simp] theorem tickKeepAlive_idleCnt (s : State) : s.tickKeepAlive.idleCnt = s.idleCnt := by
  rcases tickKeepAlive_cases s with e | e <;> simp [e]

@[simp] theorem tickKeepAlive_asm (s : State) : s.tickKeepAlive.asm = s.asm := by
  rcases tickKeepAlive_cases s with e | e <;> simp [e]

@[simp] theorem tickKeepAlive_asmCnt (s : State) : s.tickKeepAlive.asmCnt = s.asmCnt := by
  rcases tickKeepAlive_cases s with e | e <;> simp [e]

@[simp] theorem tickKeepAlive_v (s : State) : s.tickKeepAlive.v = s.v := by
  rcases tickKeepAlive_cases s with e | e <;> simp [e]

@[simp] theorem tickKeepAlive_r (s : State) : s.tickKeepAlive.r = s.r := by
  rcases tickKeepAlive_cases s with e | e <;> simp [e]

/-- T5 clears TXIDLE_CNT or leaves it (R186, R244). -/
theorem emitIfActive_txidleCnt (s : State) : s.emitIfActive.txidleCnt = s.txidleCnt ∨ s.emitIfActive.txidleCnt = 0 := by
  by_cases hl : s.lstate = .active
  · rw [emitIfActive_of_active hl]
    refine emitDiff_induction (P := fun t => t.txidleCnt = s.txidleCnt ∨ t.txidleCnt = 0) s (.inl rfl) ?_
    intro t i b ht _
    rcases emitUpdate_cases t (i, b) with ⟨-, e⟩ | ⟨-, e⟩ <;> rw [e]
    · exact .inr rfl
    · rwa [countFailure_txidleCnt, report_txidleCnt]
  · exact .inl (by rw [emitIfActive_of_not_active hl])

theorem tickKeepAlive_txidleCnt (s : State) :
    s.tickKeepAlive.txidleCnt = s.txidleCnt ∨ s.tickKeepAlive.txidleCnt = 0 := by
  rcases tickKeepAlive_cases s with e | e <;> rw [e]
  · exact .inl rfl
  · exact enqueueRecall_txidleCnt s

/-! ## PoweredUp (R240) -/

theorem tickLink_of_poweredUp {s : State} (hl : s.lstate = .poweredUp) : s.tickLink = s.tickPoweredUp := by
  rw [State.tickLink, hl]

theorem noteFrame_withPuCnt (s : State) (c : Counter) (f : List Byte) (type : Nat) :
    State.noteFrame { s with puCnt := c } f type = { s.noteFrame f type with puCnt := c } := by
  unfold State.noteFrame State.noteWord
  split
  · rfl
  · split <;> rfl

/-- Sending the Recall clears PU_CNT, whatever it held (R220). -/
theorem sendRecall_withPuCnt (s : State) (c : Counter) : State.sendRecall { s with puCnt := c } = s.sendRecall := by
  rw [sendRecall_eq_noteWord, sendRecall_eq_noteWord, noteFrame_withPuCnt]

/-- T3 in PoweredUp: who sends the Recall and who counts. -/
theorem tickPoweredUp_eq (s : State) :
    s.tickPoweredUp =
      if s.sess.role = .controller ∧ s.powerupTicks ≤ min (s.puCnt.toNat + 1) 4294967295 ∨
          s.sess.role = .station ∧ s.priorFail = true then s.sendRecall
      else if s.sess.role = .controller then { s with puCnt := inc s.puCnt }
      else s := by
  unfold State.tickPoweredUp
  rw [sendRecall_withPuCnt, toNat_inc]
  cases s.sess.role <;> simp

/-- Settles O30: the timers, then T3 in PoweredUp; neither branch leaves the link Active. -/
theorem tickSendsThePowerUpRecall : Obligations.TickSendsThePowerUpRecall := by
  intro s hl hlen
  have hlink : s.tickTimers.tickLink = s.tickTimers.tickPoweredUp := tickLink_of_poweredUp (by simp [hl])
  have hquiet : s.tickTimers.tickPoweredUp.lstate ≠ .active := by
    rcases tickPoweredUp_cases s.tickTimers with ⟨-, e | e⟩ | ⟨-, e | e⟩ <;> simp [e, hl]
  rw [exec_tick_eq, hlink, emit_keepAlive_of_not_active hquiet, tickPoweredUp_eq, sendRecall_eq_noteWord,
    afterTickTimers_eq hlen]
  simp only [tickTimers_sess, tickTimers_powerupTicks, tickTimers_puCnt, tickTimers_priorFail]
  rfl

/-! ## AwaitingRecallResponse (R241) -/

theorem tickLink_of_awaiting {s : State} (hl : s.lstate = .awaitingRecallResponse) : s.tickLink = s.tickAwaiting := by
  rw [State.tickLink, hl]

theorem noteWord_withRespCnt (s : State) (c : Counter) (w : Nat) :
    State.noteWord { s with respCnt := c } w = { s.noteWord w with respCnt := c } := by
  unfold State.noteWord
  split <;> rfl

/-- RESPONSE_TIMEOUT: the retries made (R321). -/
theorem reportResponseTimeout_eq_noteWord (s : State) :
    s.reportResponseTimeout = { s.noteWord (0x40000000 + s.retryCnt.toNat) with respCnt := inc s.respCnt } := by
  have hinfo : (zext24 s.retryCnt).toNat = s.retryCnt.toNat := BitVec.toNat_setWidth_of_le (by decide)
  rw [State.reportResponseTimeout, report_eq_noteWord_of_info hinfo, noteWord_withRespCnt]
  rfl

/-- T3 in AwaitingRecallResponse, in numbers. -/
theorem tickAwaiting_eq_noteWord (s : State) :
    s.tickAwaiting =
      if min (s.respCnt.toNat + 1) 4294967295 < s.sess.respto.toNat then { s with respCnt := inc s.respCnt }
      else if s.retryCnt.toNat < s.sess.retry.toNat then
        State.noteFrame
          { s.noteWord (0x40000000 + s.retryCnt.toNat) with
            retryCnt := BitVec.ofNat 8 (s.retryCnt.toNat + 1), respCnt := 0 }
          recallBytes 4
      else
        State.noteWord
          { s.noteWord (0x40000000 + s.retryCnt.toNat) with
            lstate := .failed, fcause := .responseTimeout, priorFail := true, asm := [], asmCnt := 0, txq := [],
            puCnt := 0, respCnt := 0 }
          0x01000023 := by
  have hsucc : s.retryCnt + 1 = BitVec.ofNat 8 (s.retryCnt.toNat + 1) := by bv_omega
  rw [tickAwaiting_eq, enterFailed_of_setsPriorFail rfl, enqueueRecall_eq_noteFrame, reportResponseTimeout_eq_noteWord,
    hsucc]
  simp only [expired_inc_iff, ← Nat.not_lt, ite_not]
  rfl

/-- Settles O31: the timers, then T3 in AwaitingRecallResponse; no branch leaves the link Active. -/
theorem tickRetriesThenFails : Obligations.TickRetriesThenFails := by
  intro s hl hlen
  have hlink : s.tickTimers.tickLink = s.tickTimers.tickAwaiting := tickLink_of_awaiting (by simp [hl])
  have hquiet : s.tickTimers.tickAwaiting.lstate ≠ .active := by
    rcases tickAwaiting_cases s.tickTimers with e | ⟨-, e⟩ | e <;> simp [e, hl, State.reportResponseTimeout]
  rw [exec_tick_eq, hlink, emit_keepAlive_of_not_active hquiet, tickAwaiting_eq_noteWord, afterTickTimers_eq hlen]
  simp only [tickTimers_sess, tickTimers_respCnt, tickTimers_retryCnt]
  rfl

/-! ## Active (R242, R244, R245) -/

theorem tickLink_of_active {s : State} (hl : s.lstate = .active) : s.tickLink = s.tickActive := by
  rw [State.tickLink, hl]

/-- At S_POLLTO ticks without a valid frame a TICK fails the link. -/
theorem exec_tick_of_poll_timeout {s : State} (hl : s.lstate = .active)
    (hto : s.sess.pollto.toNat ≤ min (s.idleCnt.toNat + 1) 4294967295) :
    exec .tick s = .next ((s.tickTimers.report .pollTimeout 0).enterFailed .pollTimeout) := by
  have hexp : expired s.tickTimers.idleCnt s.tickTimers.sess.pollto = true := by
    rw [tickTimers_idleCnt, tickTimers_sess, expired_inc_iff]
    exact hto
  have hlink : s.tickTimers.tickLink = (s.tickTimers.report .pollTimeout 0).enterFailed .pollTimeout := by
    rw [tickLink_of_active (by simp [hl]), State.tickActive, if_pos hexp]
  rw [exec_tick_eq, hlink, emit_keepAlive_of_not_active (by simp)]

/-- Before that a TICK sends the differences, and the keep-alive when due. -/
theorem exec_tick_of_active {s : State} (hl : s.lstate = .active)
    (hin : min (s.idleCnt.toNat + 1) 4294967295 < s.sess.pollto.toNat) :
    exec .tick s = .next s.tickTimers.emitDiff.tickKeepAlive := by
  have hexp : ¬ expired s.tickTimers.idleCnt s.tickTimers.sess.pollto = true := by
    rw [tickTimers_idleCnt, tickTimers_sess, expired_inc_iff]
    exact Nat.not_le.2 hin
  have hlink : s.tickTimers.tickLink = s.tickTimers := by
    rw [tickLink_of_active (by simp [hl]), State.tickActive, if_neg hexp]
  rw [exec_tick_eq, hlink, emitIfActive_of_active (by simp [hl])]

/-- Settles O32: the timeout by its two words, the served link by T5 and T6. -/
theorem tickFailsOrServesAnActiveLink : Obligations.TickFailsOrServesAnActiveLink := by
  intro s hl hlen
  rw [afterTickTimers_eq hlen]
  refine ⟨fun hto => ?_, fun hin => ?_⟩
  · rw [exec_tick_of_poll_timeout hl hto, enterFailed_of_setsPriorFail rfl, report_eq_noteWord (n := 0x41000000) rfl]
    rfl
  · rw [exec_tick_of_active hl hin, tickKeepAlive_of_active (by simp [hl]), emitDiff_sess, tickTimers_sess]

/-- A diff of vectors that agree on its points is empty (R180). -/
theorem diff_eq_nil {a b : VecReg} {n : Nat} (h : ∀ i, 1 ≤ i → i ≤ n → pt a i = pt b i) : diff a b n = [] := by
  refine List.eq_nil_iff_forall_not_mem.2 fun p hp => ?_
  obtain ⟨h1, hn, hne, -⟩ := (mem_diff a b n p.1 p.2).1 hp
  exact hne (h p.1 h1 hn)

/-- With nothing buffered, T1 and T4 alone act; in time, the health bit is HEARD. -/
theorem tickTimers_of_empty {s : State} (ha : s.asm = [])
    (hin : min (s.idleCnt.toNat + 1) 4294967295 < s.sess.pollto.toNat) :
    s.tickTimers = { s with idleCnt := inc s.idleCnt, txidleCnt := inc s.txidleCnt, v := setpt s.v 16 s.heard } := by
  rw [← afterTickTimers_eq (by simp [ha]), State.afterTickTimers, if_pos ha, decide_eq_true hin, Bool.and_true]
  rfl

/-- Settles O35: the pending points are none, so T5 does nothing and T6 finds TXIDLE_CNT counted. -/
theorem tickPollsAnIdleActiveLink : Obligations.TickPollsAnIdleActiveLink := by
  intro s hl ha hin hnone
  have htimers := tickTimers_of_empty ha hin
  have hemit : s.tickTimers.emitDiff = s.tickTimers := by
    have hdiff : diff s.tickTimers.r s.tickTimers.v s.tickTimers.len = [] := by
      rw [htimers]
      exact diff_eq_nil hnone
    rw [State.emitDiff, hdiff, List.foldl_nil]
  rw [exec_tick_of_active hl hin, hemit, tickKeepAlive_of_active (by simp [hl]), tickTimers_sess, tickTimers_txidleCnt,
    toNat_inc, htimers]

/-- Settles O36: with room for L frames every difference is queued, and R takes V's points. -/
theorem tickSendsEveryPendingPoint : Obligations.TickSendsEveryPendingPoint := by
  intro s hl hin hroom
  refine ⟨_, exec_tick_of_active hl hin, by simp [hl], fun i h1 hi => ?_⟩
  have hfits : ∀ d, s.tickTimers.params.txqDepth = some d → s.tickTimers.txq.length +
      (diff s.tickTimers.r s.tickTimers.v s.tickTimers.len).length ≤ d := by
    intro d hd
    rw [tickTimers_params] at hd
    have hle := diff_length_le s.tickTimers.r s.tickTimers.v s.tickTimers.len
    have hbound := hroom d hd
    rw [tickTimers_len] at hle
    rw [tickTimers_txq, tickTimers_len]
    omega
  have hr : s.tickTimers.emitDiff.r =
      setPoints (diff s.tickTimers.r s.tickTimers.v s.tickTimers.len) s.tickTimers.r := by
    rw [emitDiff_of_room hfits]
  rw [tickKeepAlive_r, tickKeepAlive_v, emitDiff_v, hr, pt_setPoints_diff _ _ _ h1, tickTimers_len, if_pos hi]

/-! ## Failed (R239) -/

/-- Settles O33: T3, T5 and T6 find nothing to do. -/
theorem tickInFailedOnlyServesTimers : Obligations.TickInFailedOnlyServesTimers := by
  intro s hl hlen
  have hfailed : s.tickTimers.lstate = .failed := by simp [hl]
  have hlink : s.tickTimers.tickLink = s.tickTimers := by rw [State.tickLink, hfailed]
  rw [exec_tick_eq, hlink, emit_keepAlive_of_not_active (by simp [hl]), afterTickTimers_eq hlen]

/-! ## Every LinkState (R237, R238, R243) -/

theorem extends_tickTimers (s : State) : Extends s s.tickTimers :=
  (Extends.refl s).tickCounters.tickLinkTimeout.tickHealth

/-- A counter that each of three stages keeps or clears is kept or cleared by them all. -/
theorem kept_or_cleared_trans {a b c : Counter} (h1 : b = a ∨ b = 0) (h2 : c = b ∨ c = 0) : c = a ∨ c = 0 := by
  rcases h2 with rfl | rfl
  · exact h1
  · exact .inr rfl

/-- Settles O29: the timers' own writes, kept by T3, T5 and T6. -/
theorem tickCountsAndRecomputesHealth : Obligations.TickCountsAndRecomputesHealth := by
  intro s
  obtain ⟨hv, hh, hi, -⟩ := (linkArm_tickLink s.tickTimers).keeps
  have htx := kept_or_cleared_trans
    (kept_or_cleared_trans (linkArm_tickLink s.tickTimers).txidleCnt (emitIfActive_txidleCnt _))
    (tickKeepAlive_txidleCnt _)
  have hext : Extends s s.tickTimers.tickLink.emitIfActive.tickKeepAlive :=
    (extends_tickTimers s).tickLink.emitIfActive.tickKeepAlive
  have hout := tickStages_out s
  rw [Host.Outcome.next.inj ((exec_tick s).symm.trans (exec_tick_eq s))] at hout
  refine ⟨_, exec_tick_eq s, ?_, ?_, ?_, ?_, hext.stg, hext.cfg, hext.sess, hext.params, hext.input, hout⟩
  · rw [tickKeepAlive_idleCnt, emitIfActive_idleCnt, hi, tickTimers_idleCnt]
    rfl
  · rw [tickTimers_txidleCnt] at htx
    exact htx
  · rw [tickKeepAlive_v, emitIfActive_v, hv, tickTimers_v, health_inc]
    rfl
  · rw [tickKeepAlive_heard, emitIfActive_heard, hh, tickTimers_heard]

/-- T2 on a stale partial frame: ASM emptied, the failure counted, the report queued first. -/
theorem tickTimers_of_stale {s : State} (ha : s.asm ≠ []) (hlen : s.asm.length ≤ 33)
    (hto : s.sess.linkto.toNat ≤ min (s.asmCnt.toNat + 1) 4294967295) :
    s.tickTimers.asm = [] ∧ s.tickTimers.asmCnt = 0 ∧ s.tickTimers.failCnt = inc s.failCnt ∧
      s.tickTimers.rptq = (s.noteWord (0x13000000 + s.asm.length)).rptq := by
  rw [← afterTickTimers_eq hlen, State.afterTickTimers, if_neg ha, if_pos hto]
  refine ⟨rfl, rfl, rfl, ?_⟩
  unfold State.noteWord
  split <;> rfl

/-- T2 on a partial frame in time: one tick older. -/
theorem tickTimers_of_fresh {s : State} (ha : s.asm ≠ []) (hlen : s.asm.length ≤ 33)
    (hin : ¬ s.sess.linkto.toNat ≤ min (s.asmCnt.toNat + 1) 4294967295) :
    s.tickTimers.asm = s.asm ∧ s.tickTimers.asmCnt = inc s.asmCnt := by
  rw [← afterTickTimers_eq hlen, State.afterTickTimers, if_neg ha, if_neg hin]
  exact ⟨rfl, rfl⟩

/-- Settles O34: T2's outcome, which T3, T5 and T6 extend, and which only an entry into Failed overrides. -/
theorem tickDiscardsAStalePartialFrame : Obligations.TickDiscardsAStalePartialFrame := by
  intro s ha hlen
  refine ⟨_, exec_tick_eq s, ?_⟩
  have harm := (linkArm_tickLink s.tickTimers).asm
  rw [tickTimers_lstate] at harm
  rw [tickKeepAlive_asm, emitIfActive_asm, tickKeepAlive_asmCnt, emitIfActive_asmCnt, tickKeepAlive_lstate,
    emitIfActive_lstate]
  split
  · next hto =>
    obtain ⟨hasm, hcnt, hfail, hq⟩ := tickTimers_of_stale ha hlen hto
    have hext : Extends s.tickTimers s.tickTimers.tickLink.emitIfActive.tickKeepAlive :=
      (Extends.refl _).tickLink.emitIfActive.tickKeepAlive
    have hempty : s.tickTimers.tickLink.asm = [] ∧ s.tickTimers.tickLink.asmCnt = 0 := by
      rcases harm with ⟨ea, ec⟩ | ⟨-, -, hnone⟩
      · exact ⟨ea.trans hasm, ec.trans hcnt⟩
      · exact hnone
    refine ⟨hempty.1, hempty.2, ?_, hq ▸ hext.rptq⟩
    rw [← toNat_inc, ← hfail]
    exact hext.failCnt
  · next hin =>
    intro hstays
    obtain ⟨hasm, hcnt⟩ := tickTimers_of_fresh ha hlen hin
    rcases harm with ⟨ea, ec⟩ | ⟨hbefore, hafter, -⟩
    · exact ⟨ea.trans hasm, ec.trans hcnt⟩
    · exact absurd hstays (by simp [hbefore, hafter])

end Sys2Proof.Machine
end

section
/-! The transition table of the link (spec/42_supervisor.md R255): its rows as `LinkChange`, and that every instruction
follows one of them. -/

namespace Sys2Proof.Machine

/-! ## The rows -/

/-- `LinkChange s i l c`: run in s, the instruction i may leave LSTATE at l and FCAUSE at c. One constructor for each row
of R255, and one for everything the table does not list. -/
inductive LinkChange (s : State) : Instr → LinkState → FCause → Prop
  | kept (i : Instr) (hi : i ≠ .reset) : LinkChange s i s.lstate s.fcause
  | reset : LinkChange s .reset .poweredUp .none
  | powerUpRecall (hl : s.lstate = .poweredUp) (hr : s.sess.role = .controller)
      (hdue : 5 * s.params.ticksPerSecond ≤ min (s.puCnt.toNat + 1) 4294967295) :
      LinkChange s .tick .awaitingRecallResponse .none
  | recallAfterFailure (hl : s.lstate = .poweredUp) (hr : s.sess.role = .station) (hf : s.priorFail = true) :
      LinkChange s .tick .awaitingRecallResponse .none
  | lineIdle (hl : s.lstate = .poweredUp) (hr : s.sess.role = .station) :
      LinkChange s .lidle .awaitingRecallResponse .none
  | recallResponse (i : Instr) (f : List Byte) (fr : Frame) (bits : VecReg)
      (hi : (∃ b, i = .rxb false b ∧ f = s.asm ++ [b]) ∨ ∃ p c, i = .allFrame p c ∧ Encoded.frame f = encode i)
      (hdec : codecDecode f s.sess.euc.toNat = .ok fr) (hbody : fr.body = .bodyAll bits)
      (hl : s.lstate = .awaitingRecallResponse) : LinkChange s i .active .none
  | responseTimeout (hl : s.lstate = .awaitingRecallResponse)
      (hto : s.sess.respto.toNat ≤ min (s.respCnt.toNat + 1) 4294967295) (hspent : s.retryCnt = s.sess.retry) :
      LinkChange s .tick .failed .responseTimeout
  | pollTimeout (hl : s.lstate = .active) (hto : s.sess.pollto.toNat ≤ min (s.idleCnt.toNat + 1) 4294967295) :
      LinkChange s .tick .failed .pollTimeout
  | linkDown (hl : s.lstate ≠ .failed) : LinkChange s .ldown .failed .linkDown
  | closed (hl : s.lstate ≠ .failed) : LinkChange s .close .failed .closed

/-- The link of t is the link of s. -/
def KeepsLink (s t : State) : Prop := t.lstate = s.lstate ∧ t.fcause = s.fcause

theorem KeepsLink.change {s t : State} (h : KeepsLink s t) {i : Instr} (hi : i ≠ .reset) :
    LinkChange s i t.lstate t.fcause := by
  obtain ⟨hl, hc⟩ := h
  rw [hl, hc]
  exact .kept i hi

/-! ## Instructions beside the table -/

theorem setbit_keepsLink {s t : State} {b : Bool} {i : BitVec 8} (he : exec (.setbit b i) s = .next t) :
    KeepsLink s t := by
  by_cases hout : i.toNat = 0 ∨ s.len < i.toNat
  · rw [exec_setbit_outside hout] at he
    cases he
    exact ⟨report_lstate _ _ _, report_fcause _ _ _⟩
  · rw [exec_setbit_inside (by omega) (by omega)] at he
    cases he
    exact ⟨by simp, by simp⟩

theorem loadall_keepsLink {s t : State} {n : BitVec 5} (he : exec (.loadall n) s = .next t) : KeepsLink s t := by
  by_cases hn : n.toNat = s.nb
  · rw [exec_loadall_match hn] at he
    cases he
    exact ⟨emitIfActive_lstate _, emitIfActive_fcause _⟩
  · rw [exec_loadall_mismatch hn] at he
    cases he
    exact ⟨report_lstate _ _ _, report_fcause _ _ _⟩

theorem cfg_keepsLink {s t : State} {reg : BitVec 4} {value : BitVec 24} (he : exec (.cfg reg value) s = .next t) :
    KeepsLink s t := by
  simp only [exec, execCfg] at he
  split at he
  · cases he
    exact ⟨report_lstate _ _ _, report_fcause _ _ _⟩
  · split at he
    · cases he
      exact ⟨report_lstate _ _ _, report_fcause _ _ _⟩
    · cases he
      exact ⟨rfl, rfl⟩

theorem txtake_keepsLink {s t : State} (he : exec .txtake s = .next t) : KeepsLink s t := by
  simp only [exec, execTxtake] at he
  split at he
  · cases he
    exact ⟨rfl, rfl⟩
  · split at he <;> cases he <;> exact ⟨rfl, rfl⟩

theorem rpttake_keepsLink {s t : State} (he : exec .rpttake s = .next t) : KeepsLink s t := by
  simp only [exec, execRpttake] at he
  split at he <;> cases he <;> exact ⟨rfl, rfl⟩

/-! ## Frames -/

/-- The variant of a decoded frame is its payload's, by its type (R136). -/
theorem body_of_codecDecode {f : List Byte} {e : Nat} {fr : Frame} (h : codecDecode f e = .ok fr) :
    fr.body = frameBody fr.type fr.payload := by
  unfold codecDecode at h
  split at h
  · cases h
  · split at h
    · cases h
    · split at h
      · cases h
      · dsimp only at h
        split at h
        · cases h
        · cases h
          rfl

/-- Only a header of type 001 decodes to an All (R92, R136). -/
theorem hdrType_of_bodyAll {h : Byte} {rest : List Byte} {e : Nat} {fr : Frame} {bits : VecReg}
    (hdec : codecDecode (h :: rest) e = .ok fr) (hbody : fr.body = .bodyAll bits) : hdrType h = typeAll := by
  obtain ⟨_, _, hcons, -, htype, -⟩ := codecDecode_eq_ok hdec
  cases hcons
  rw [body_of_codecDecode hdec] at hbody
  cases ht : fr.type with
  | msgAll => rw [htype, ht]; rfl
  | msgRecall => simp [ht, frameBody] at hbody
  | msgUpdate => simp [ht, frameBody] at hbody

/-- A valid frame changes the link only as the recall response (R223, R226). -/
theorem frameReceived_link (s : State) (fr : Frame) :
    KeepsLink s (s.frameReceived fr) ∨
    (s.lstate = .awaitingRecallResponse ∧ (∃ bits, fr.body = .bodyAll bits) ∧
      (s.frameReceived fr).lstate = .active ∧ (s.frameReceived fr).fcause = s.fcause) := by
  unfold KeepsLink
  rcases frameReceived_cases s fr with ⟨-, e⟩ | ⟨-, -, e⟩ | ⟨-, -, e⟩ | ⟨-, -, e⟩ | ⟨hl, b, hb, e⟩ |
    ⟨-, i, b, -, e⟩ | ⟨-, b, -, e⟩ <;> rw [e]
  case inr.inr.inr.inr.inl => exact .inr ⟨hl, ⟨b, hb⟩, by simp, by simp⟩
  all_goals exact .inl (by simp)

/-- A completed frame keeps the link, or is an All that answers the Recall. -/
theorem completeFrame_link {s : State} (h : Inv s) {i : Instr} (hi : i ≠ .reset) {f : List Byte}
    (hf : ∀ fr bits, codecDecode f s.sess.euc.toNat = .ok fr → fr.body = .bodyAll bits →
      (∃ b, i = .rxb false b ∧ f = s.asm ++ [b]) ∨ ∃ p c, i = .allFrame p c ∧ Encoded.frame f = encode i) :
    LinkChange s i (s.completeFrame f).lstate (s.completeFrame f).fcause := by
  rcases completeFrame_cases s f with ⟨e, -, he⟩ | ⟨fr, hdec, he⟩ <;> rw [he]
  · exact KeepsLink.change ⟨by simp, by simp⟩ hi
  · rcases frameReceived_link s.clearAsm fr with ⟨hl, hc⟩ | ⟨hl, ⟨bits, hb⟩, hactive, hc⟩
    · exact KeepsLink.change (s := s) ⟨hl, hc⟩ hi
    · have hawait : s.lstate = .awaitingRecallResponse := hl
      have hnone : s.clearAsm.fcause = .none := h.fcause_none (by simp [hawait])
      rw [hactive, hc, hnone]
      exact .recallResponse i f fr bits (hf fr bits hdec hb) hdec hb hawait

/-- The same of a frame row. -/
theorem frame_linkChange {s t : State} (h : Inv s) {i : Instr} {hd : Byte} {rest : List Byte}
    (henc : encode i = .frame (hd :: rest)) (hall : hdrType hd = typeAll → ∃ p c, i = .allFrame p c)
    (he : exec i s = .next t) : LinkChange s i t.lstate t.fcause := by
  have hi : i ≠ .reset := by
    rintro rfl
    cases henc
  rw [exec_of_encode_frame henc] at he
  cases he
  by_cases hl : s.lstate = .failed
  · rw [receiveWhole_of_failed hl]
    exact .kept i hi
  · rw [receiveWhole_of_not_failed hl]
    refine completeFrame_link h hi fun fr bits hdec hb => .inr ?_
    obtain ⟨p, c, hpc⟩ := hall (hdrType_of_bodyAll hdec hb)
    exact ⟨p, c, hpc, henc.symm⟩

/-- A lone byte completes no frame, since every frame has two bytes or more (R99). -/
theorem acceptByte_of_empty {s : State} (ha : s.asm = []) (b : Byte) :
    s.acceptByte b = { s with asm := s.asm ++ [b], asmCnt := 0 } := by
  refine acceptByte_of_partial ?_
  have := two_le_announcedLen_append s.asm b
  rw [ha] at this ⊢
  simp only [List.nil_append, List.length_singleton] at this ⊢
  omega

/-- RXB: only a byte without SOP completes a frame (R141). -/
theorem rxb_linkChange {s t : State} (h : Inv s) {sop : Bool} {b : Byte} (he : exec (.rxb sop b) s = .next t) :
    LinkChange s (.rxb sop b) t.lstate t.fcause := by
  have hi : Instr.rxb sop b ≠ .reset := nofun
  by_cases hl : s.lstate = .failed
  · rw [exec_rxb_of_failed hl] at he
    cases he
    exact .kept _ hi
  · cases sop with
    | false =>
      rw [exec_rxb_joins (sop := false) hl nofun] at he
      cases he
      rcases acceptByte_cases s b with ⟨-, e⟩ | ⟨-, e⟩ <;> rw [e]
      · exact completeFrame_link h hi fun _ _ _ _ => .inl ⟨b, rfl, rfl⟩
      · exact .kept _ hi
    | true =>
      by_cases ha : s.asm = []
      · rw [exec_rxb_joins hl fun _ => ha, acceptByte_of_empty ha] at he
        cases he
        exact .kept _ hi
      · rw [exec_rxb_restarts hl ha, acceptByte_of_empty (dropPartial_asm s)] at he
        cases he
        exact KeepsLink.change ⟨dropPartial_lstate s, dropPartial_fcause s⟩ hi

/-! ## The rows of the table, event by event -/

theorem lidle_linkChange {s t : State} (h : Inv s) (he : exec .lidle s = .next t) :
    LinkChange s .lidle t.lstate t.fcause := by
  cases he
  split
  · next hs =>
    obtain ⟨hl, hr⟩ := hs
    rw [sendRecall_lstate, sendRecall_fcause, h.fcause_none (by simp [hl])]
    exact .lineIdle hl hr
  · exact .kept _ nofun

/-- LDOWN and CLOSE: nothing in Failed, elsewhere the row of their cause. -/
theorem failUnlessFailed_linkChange {s : State} {i : Instr} (hi : i ≠ .reset) {cause : FCause}
    (hrow : s.lstate ≠ .failed → LinkChange s i .failed cause) :
    LinkChange s i (s.failUnlessFailed cause).lstate (s.failUnlessFailed cause).fcause := by
  by_cases hl : s.lstate = .failed
  · rw [failUnlessFailed_of_failed hl]
    exact .kept i hi
  · rw [failUnlessFailed_of_not_failed hl, enterFailed_lstate, enterFailed_fcause]
    exact hrow hl

/-- TICK changes the link by T3 alone, on the counters the timers leave (R236). -/
theorem tick_linkChange {s t : State} (h : Inv s) (he : exec .tick s = .next t) :
    LinkChange s .tick t.lstate t.fcause := by
  rw [exec_tick_eq] at he
  cases he
  rw [tickKeepAlive_lstate, emitIfActive_lstate, tickKeepAlive_fcause, emitIfActive_fcause]
  have kept {u : State} (hk : KeepsLink s.tickTimers u) : LinkChange s .tick u.lstate u.fcause := by
    obtain ⟨hl, hc⟩ := hk
    exact KeepsLink.change ⟨hl.trans (tickTimers_lstate s), hc.trans (tickTimers_fcause s)⟩ nofun
  have harm := linkArm_tickLink s.tickTimers
  generalize s.tickTimers.tickLink = u at harm
  cases harm with
  | idle => exact kept ⟨rfl, rfl⟩
  | counts => exact kept ⟨rfl, rfl⟩
  | awaits => exact kept ⟨rfl, rfl⟩
  | retries => exact kept ⟨by simp [State.reportResponseTimeout], by simp [State.reportResponseTimeout]⟩
  | powerUpRecall hl hr hdue =>
    rw [tickTimers_lstate] at hl
    rw [tickTimers_sess] at hr
    rw [tickTimers_powerupTicks, tickTimers_puCnt, toNat_inc] at hdue
    rw [sendRecall_lstate, sendRecall_fcause, tickTimers_fcause, h.fcause_none (by simp [hl])]
    exact .powerUpRecall hl hr hdue
  | recallAfterFailure hl hr hf =>
    rw [tickTimers_lstate] at hl
    rw [tickTimers_sess] at hr
    rw [tickTimers_priorFail] at hf
    rw [sendRecall_lstate, sendRecall_fcause, tickTimers_fcause, h.fcause_none (by simp [hl])]
    exact .recallAfterFailure hl hr hf
  | responseTimeout hl hto hspent =>
    rw [tickTimers_lstate] at hl
    rw [tickTimers_respCnt, tickTimers_sess, expired_inc_iff] at hto
    rw [tickTimers_retryCnt, tickTimers_sess] at hspent
    rw [enterFailed_lstate, enterFailed_fcause]
    exact .responseTimeout hl hto (BitVec.eq_of_toNat_eq (h.retryBound.antisymm hspent))
  | pollTimeout hl hto =>
    rw [tickTimers_lstate] at hl
    rw [tickTimers_idleCnt, tickTimers_sess, expired_inc_iff] at hto
    rw [enterFailed_lstate, enterFailed_fcause]
    exact .pollTimeout hl hto

/-- Every instruction follows a row of the table, or keeps the link. -/
theorem linkChange_of_exec {i : Instr} {s t : State} (h : Inv s) (he : exec i s = .next t) :
    LinkChange s i t.lstate t.fcause := by
  have reported (code : ReportCode) (info : Info) : KeepsLink s (s.report code info) :=
    ⟨report_lstate s code info, report_fcause s code info⟩
  cases i with
  | rxb sop b => exact rxb_linkChange h he
  | rxf k => cases he; exact (reported _ _).change nofun
  | lidle => exact lidle_linkChange h he
  | ldown => cases he; exact failUnlessFailed_linkChange (i := .ldown) nofun .linkDown
  | tick => exact tick_linkChange h he
  | setbit b i => exact (setbit_keepsLink he).change nofun
  | wrstg k b => cases he; exact .kept _ nofun
  | loadall n => exact (loadall_keepsLink he).change nofun
  | cfg reg value => exact (cfg_keepsLink he).change nofun
  | reset => cases he; rw [linkReset_lstate, linkReset_fcause]; exact .reset
  | close => cases he; exact failUnlessFailed_linkChange (i := .close) nofun .closed
  | txtake => exact (txtake_keepsLink he).change nofun
  | rpttake => exact (rpttake_keepsLink he).change nofun
  | reservedOp0 any => cases he; exact (reported _ _).change nofun
  | reservedOpE any => cases he; exact (reported _ _).change nofun
  | reservedOpF any => cases he; exact (reported _ _).change nofun
  | recallFrame c =>
    have hother : hdrType (packHeader typeRecall 0) ≠ typeAll := by decide
    exact frame_linkChange h rfl (fun ht => absurd ht hother) he
  | updateFrame u c =>
    have hother : hdrType (packHeader typeUpdate 1) ≠ typeAll := by decide
    exact frame_linkChange h rfl (fun ht => absurd ht hother) he
  | allFrame p c => exact frame_linkChange h rfl (fun _ => ⟨p, c, rfl⟩) he

/-- Settles O52: the row an instruction follows is one of the statement's. -/
theorem linkStateChangesOnlyByTheTable : Obligations.LinkStateChangesOnlyByTheTable := by
  intro i s t hinv he
  have hrow := linkChange_of_exec hinv he
  generalize t.lstate = l, t.fcause = c at hrow
  cases hrow with
  | kept _ hi => exact .inl ⟨hi, rfl, rfl⟩
  | reset => exact .inr (.inl ⟨rfl, rfl, rfl⟩)
  | powerUpRecall hl hr hdue => exact .inr (.inr (.inl ⟨rfl, hl, hr, hdue, rfl, rfl⟩))
  | recallAfterFailure hl hr hf => exact .inr (.inr (.inr (.inl ⟨rfl, hl, hr, hf, rfl, rfl⟩)))
  | lineIdle hl hr => exact .inr (.inr (.inr (.inr (.inl ⟨rfl, hl, hr, rfl, rfl⟩))))
  | recallResponse _ f fr bits hi hdec hbody hl =>
    have hbytes : ∃ b, i = .rxb false b ∧ f = s.asm ++ [b] ∨ ∃ p c, i = .allFrame p c ∧ Encoded.frame f = encode i := by
      rcases hi with ⟨b, hb⟩ | hall
      · exact ⟨b, .inl hb⟩
      · exact ⟨0, .inr hall⟩
    exact .inr (.inr (.inr (.inr (.inr (.inl ⟨⟨f, fr, bits, hbytes, hdec, hbody⟩, hl, rfl, rfl⟩)))))
  | responseTimeout hl hto hspent =>
    exact .inr (.inr (.inr (.inr (.inr (.inr (.inl ⟨rfl, hl, hto, hspent, rfl, rfl⟩))))))
  | pollTimeout hl hto => exact .inr (.inr (.inr (.inr (.inr (.inr (.inr (.inl ⟨rfl, hl, hto, rfl, rfl⟩)))))))
  | linkDown hl => exact .inr (.inr (.inr (.inr (.inr (.inr (.inr (.inr (.inl ⟨rfl, hl, rfl, rfl⟩))))))))
  | closed hl => exact .inr (.inr (.inr (.inr (.inr (.inr (.inr (.inr (.inr ⟨rfl, hl, rfl, rfl⟩))))))))

end Sys2Proof.Machine
end

section
/-! Illegal event words (spec/30_encoding.md R104 to R108; spec/43_control.md R290, R291): which words the decoder rejects or
reads as a reserved opcode, and the one report each gets. -/

namespace Sys2Proof.Machine

/-! ## What the decoder makes of an illegal word -/

/-- A word of an opcode without reserved bits is decoded by its fields. -/
theorem decodeEvent_of_no_reserved_bits {w : EventWord} (hmask : reservedMask (opField w) = 0#32) :
    decodeEvent w = decodeFields w :=
  if_neg (not_not.2 (by rw [reservedBitsOf, hmask, BitVec.and_zero]; rfl))

/-- A reserved opcode is read as an instruction that reports it with reason 0, whatever the other bits are (R105). -/
theorem decodeEvent_of_reserved_opcode {w : EventWord} (hop : opField w = 0x0 ∨ opField w = 0xE ∨ opField w = 0xF) :
    ∃ i, decodeEvent w = .ok i ∧ ∀ s, exec i s = .next (s.illegal (opField w) 0) := by
  have hmask : reservedMask (opField w) = 0#32 := by rcases hop with h | h | h <;> rw [h] <;> rfl
  rw [decodeEvent_of_no_reserved_bits hmask, decodeFields]
  rcases hop with h | h | h <;> rw [h] <;> exact ⟨_, rfl, fun _ => rfl⟩

theorem decodeEvent_of_reserved_bits {w : EventWord} (hr : reservedBitsOf w ≠ 0) :
    decodeEvent w = .error (.reservedBits (opField w)) := if_pos hr

/-- The numbers above 4 name no fault (R106). -/
theorem transportFault_ofCode_eq_none {c : BitVec 3} (h : 4 < c.toNat) : TransportFault.ofCode c = none := by
  rw [← Option.map_eq_none_iff, ofCode_map_code, if_neg (Nat.not_le.2 h)]

theorem decodeEvent_of_bad_kind {w : EventWord} (hop : opField w = 0x2) (hr : reservedBitsOf w = 0)
    (hkind : 4 < w.toNat % 8) : decodeEvent w = .error .badKind := by
  have hnone : TransportFault.ofCode (w.extractLsb' 0 3) = none :=
    transportFault_ofCode_eq_none (by rwa [BitVec.extractLsb'_toNat, Nat.shiftRight_zero])
  rw [decodeEvent, if_neg (not_not.2 hr), decodeFields, hop]
  simp [hnone]

/-! ## The step of an illegal word -/

/-- A rejected word is reported with its opcode and its reason (R290). -/
theorem rejectEvent_eq_noteWord (s : State) (w : EventWord) (e : EventReject) :
    s.rejectEvent w e = s.noteWord (0x60000000 + 16 * (rejectReason e).toNat + (opField w).toNat) :=
  illegal_eq_noteWord s (opField w) (rejectReason e)

/-- Settles O7: a reserved opcode is an instruction that only reports, and the decoder rejects the other two kinds with
their reasons, the reserved bit before the KIND. -/
theorem illegalWordsOnlyReport : Obligations.IllegalWordsOnlyReport := by
  intro s w rest hin
  have hfetch := fetchEvent_of_input_cons hin
  refine ⟨fun hop => ?_, fun _ hr => ?_, fun hop hr hkind => ?_⟩
  · obtain ⟨i, hdec, hexec⟩ := decodeEvent_of_reserved_opcode hop
    rw [step_of_fetch_decode_ok hfetch hdec, hexec, illegal_eq_noteWord]
    rfl
  · rw [step_of_fetch_decode_error hfetch (decodeEvent_of_reserved_bits hr), rejectEvent_eq_noteWord]
    rfl
  · rw [step_of_fetch_decode_error hfetch (decodeEvent_of_bad_kind hop hr hkind), rejectEvent_eq_noteWord, hop]
    rfl

end Sys2Proof.Machine
end

section
/-! The control events (spec/43_control.md R280, R281, R286, R287): CFG and what the read port shows of its register,
RESET point by point, and the two handshakes. -/

namespace Sys2Proof.Machine

/-! ## CFG's checks (R280) -/

theorem exec_cfg_no_register {r : BitVec 4} (h : 7 < r.toNat) (v : BitVec 24) (s : State) :
    exec (.cfg r v) s = .next (s.report .configRejected (rejectInfo r false)) := if_pos h

theorem exec_cfg_bad_value {r : BitVec 4} {v : BitVec 24} (hr : r.toNat ≤ 7) (hv : (cfgMax r).toNat < v.toNat)
    (s : State) : exec (.cfg r v) s = .next (s.report .configRejected (rejectInfo r true)) :=
  (if_neg (Nat.not_lt.2 hr)).trans (if_pos hv)

theorem exec_cfg_accepted {r : BitVec 4} {v : BitVec 24} (hr : r.toNat ≤ 7) (hv : v.toNat ≤ (cfgMax r).toNat)
    (s : State) : exec (.cfg r v) s = .next { s with cfg := s.cfg.write r v } :=
  (if_neg (Nat.not_lt.2 hr)).trans (if_neg (Nat.not_lt.2 hv))

/-- `OverMax r v`: the value passes the maximum of one of the four registers narrower than VALUE (R280). -/
def OverMax (r : BitVec 4) (v : BitVec 24) : Prop :=
  r = 0 ∧ 6 < v.toNat ∨ r = 1 ∧ 1 < v.toNat ∨ r = 5 ∧ 255 < v.toNat ∨ r = 6 ∧ 65535 < v.toNat

/-- Every other register holds each 24-bit value. -/
theorem cfgMax_lt_iff (r : BitVec 4) (v : BitVec 24) : (cfgMax r).toNat < v.toNat ↔ OverMax r v := by
  have hv := v.isLt
  have hmax : (cfgMax r).toNat =
      if r = 0 then 6 else if r = 1 then 1 else if r = 5 then 255 else if r = 6 then 65535 else 2 ^ 24 - 1 := by
    revert r
    decide
  rw [hmax, OverMax]
  grind

theorem OverMax.register_le {r : BitVec 4} {v : BitVec 24} (h : OverMax r v) : r.toNat ≤ 7 := by
  rcases h with ⟨rfl, -⟩ | ⟨rfl, -⟩ | ⟨rfl, -⟩ | ⟨rfl, -⟩ <;> decide

/-- CONFIG_REJECTED: the register under the reason (R321). -/
theorem rejectInfo_toNat (r : BitVec 4) (badValue : Bool) :
    (rejectInfo r badValue).toNat = r.toNat + 16 * badValue.toNat := by
  have hbad := badValue.toNat_le
  have hreg : (zext24 r).toNat = r.toNat := BitVec.toNat_setWidth_of_le (by decide)
  rw [rejectInfo, or_field_toNat hreg r.isLt (by rw [flagInfo_toNat]; omega), flagInfo_toNat]
  rfl

/-! ## CFG's write (R280, R42 to R52) -/

/-- Register n stands at address 0x20 + n (R72). -/
theorem rdReg_cfg (s : State) {n : Nat} (hn : n ≤ 7) :
    s.rdReg (BitVec.ofNat 8 (0x20 + n)) = s.cfg.readWord n := by
  interval_cases n <;> rfl

/-- A write leaves every register but its own. -/
theorem readWord_write_of_ne (c : ConfigRegs) {r : BitVec 4} (v : BitVec 24) {n : Nat} (hne : n ≠ r.toNat) :
    (c.write r v).readWord n = c.readWord n := by
  unfold ConfigRegs.write
  split
  case h_9 => rfl
  all_goals
    unfold ConfigRegs.readWord
    split <;> simp_all only [ne_eq, not_true_eq_false]

/-- A value that fits a register's width is read back from it whole. -/
theorem toNat_setWidth_readBack {v : BitVec 24} {m : Nat} (hm : m ≤ 32) (hv : v.toNat < 2 ^ m) :
    ((v.setWidth m).setWidth 32).toNat = v.toNat := by
  rw [BitVec.toNat_setWidth_of_le hm, BitVec.toNat_setWidth, Nat.mod_eq_of_lt hv]

/-- ROLE reads back the bit it was written from (R43). -/
theorem roleBit_roleOfValue (v : BitVec 24) : roleBit (roleOfValue v) = v.setWidth 1 := by
  have hbit : v.setWidth 1 = BitVec.ofBool (v.getLsbD 0) := by
    ext j hj
    obtain rfl : j = 0 := by omega
    simp
  rw [hbit, roleOfValue]
  cases v.getLsbD 0 <;> rfl

/-- A value within the maximum is read back whole from the register written. -/
theorem readWord_write_same (c : ConfigRegs) {r : BitVec 4} {v : BitVec 24} (hr : r.toNat ≤ 7)
    (hv : v.toNat ≤ (cfgMax r).toNat) : ((c.write r v).readWord r.toNat).toNat = v.toNat := by
  unfold cfgMax at hv
  unfold ConfigRegs.write
  split
  case h_1 hreg | h_6 hreg | h_7 hreg =>
    simp only [hreg] at hv ⊢
    exact toNat_setWidth_readBack (by decide) (Nat.lt_of_le_of_lt hv (by decide))
  case h_2 hrole =>
    simp only [hrole] at hv ⊢
    rw [ConfigRegs.readWord, roleBit_roleOfValue]
    exact toNat_setWidth_readBack (by decide) (Nat.lt_of_le_of_lt hv (by decide))
  case h_9 => grind
  case h_3 hreg | h_4 hreg | h_5 hreg | h_8 hreg =>
    rw [hreg]
    exact BitVec.toNat_setWidth_of_le (by decide)

/-- Settles O40: the two checks with their words, and the write read back register by register. -/
theorem cfgWritesOneRegister : Obligations.CfgWritesOneRegister := by
  intro r v s
  have hcode : 2 ^ 24 * ReportCode.configRejected.code.toNat = 0x61000000 := rfl
  refine ⟨fun hr => ?_, fun hover => ?_, fun hr hwithin => ?_⟩
  · rw [exec_cfg_no_register hr, report_eq_noteWord_of_info (rejectInfo_toNat r false), hcode]
    rfl
  · have hr : r.toNat ≤ 7 := OverMax.register_le hover
    rw [exec_cfg_bad_value hr ((cfgMax_lt_iff r v).2 hover), report_eq_noteWord_of_info (rejectInfo_toNat r true), hcode,
      Nat.add_comm r.toNat, ← Nat.add_assoc]
    rfl
  · have hv : v.toNat ≤ (cfgMax r).toNat := Nat.not_lt.1 (mt (cfgMax_lt_iff r v).1 hwithin)
    refine ⟨_, exec_cfg_accepted hr hv s, rfl, fun n hn => ?_⟩
    rw [rdReg_cfg _ hn, rdReg_cfg _ hn]
    split
    · next heq => rw [heq, readWord_write_same s.cfg hr hv]
    · next hne => rw [readWord_write_of_ne s.cfg v hne]

/-! ## RESET (R281) -/

/-- V after RESET: its points 1 to n but 16. -/
theorem pt_clearedAbove (x : VecReg) (n : Nat) {i : Nat} (h1 : 1 ≤ i) (h128 : i ≤ 128) :
    pt (setpt (x &&& pointsTo n) healthPoint false) i = if i ≤ n ∧ i ≠ healthPoint then pt x i else false := by
  have hand : pt (x &&& pointsTo n) i = (pt x i && decide (i ≤ n)) := by
    rw [← pt_pointsTo n i h1 h128, pt, BitVec.getLsbD_and]
    rfl
  rw [pt_setpt _ _ _ _ (by decide) h1 (by decide), hand]
  by_cases h16 : i = healthPoint <;> by_cases hn : i ≤ n <;> simp [h16, hn]

/-- Settles O41: RESET's own state and its STATE word, with V under the length just latched. -/
theorem resetReentersPoweredUp : Obligations.ResetReentersPoweredUp := fun s =>
  ⟨setpt (s.v &&& pointsTo s.latchSession.len) healthPoint false,
    fun _ h1 h128 => pt_clearedAbove s.v s.latchSession.len h1 h128,
    congrArg Host.Outcome.next (report_eq_noteWord (n := 0x01000000) rfl _)⟩

/-! ## The handshakes (R286, R287) -/

theorem exec_txtake_of_queued {s : State} {f : List Byte} {rest : List (List Byte)} (hq : s.txq = f :: rest)
    (ha : s.asm = []) : exec .txtake s = .next { s with out := some (.frame f), txq := rest } := by
  simp only [exec, execTxtake, hq, ha, List.length_nil, if_true]

theorem exec_txtake_of_empty {s : State} (hq : s.txq = []) : exec .txtake s = .next { s with out := none } := by
  simp only [exec, execTxtake, hq]

/-- Settles O42: a frame queued and no reception, no frame queued, a reception. -/
theorem txtakeGivesTheOldestFrame : Obligations.TxtakeGivesTheOldestFrame := by
  refine fun s => ⟨fun _ _ => exec_txtake_of_queued, ?_⟩
  rintro (hq | ha)
  · exact exec_txtake_of_empty hq
  · exact exec_txtake_of_receiving ha

theorem exec_rpttake_of_queued {s : State} {w : ReportWord} {rest : List ReportWord} (hq : s.rptq = w :: rest) :
    exec .rpttake s = .next { s with out := some (.report w), rptq := rest } := by
  simp only [exec, execRpttake, hq]

theorem exec_rpttake_of_empty {s : State} (hq : s.rptq = []) : exec .rpttake s = .next { s with out := none } := by
  simp only [exec, execRpttake, hq]

/-- Settles O43: a word queued, and none. -/
theorem rpttakeGivesTheOldestReport : Obligations.RpttakeGivesTheOldestReport :=
  fun _ => ⟨fun _ _ => exec_rpttake_of_queued, exec_rpttake_of_empty⟩

end Sys2Proof.Machine
end

section
/-! What the peer and the other links cannot do (spec/60_exceptions.md R326, R328, R330): every step has a next state, a
peer's byte or frame keeps the link's causes and timers, and a step of one link touches no other. -/

namespace Sys2Proof.Machine

/-! ## No trap (R326) -/

theorem step_of_input_nil {s : State} (hin : s.input = []) : step s = .next s := by
  simp only [step, State.fetchEvent, hin]

/-- Every step has a next state: the block waits, or consumes the word pending (R326). -/
theorem step_next (s : State) : ∃ t, step s = .next t := by
  cases hin : s.input with
  | nil => exact ⟨s, step_of_input_nil hin⟩
  | cons w rest =>
    obtain ⟨t, ht, -⟩ := step_of_input_cons hin
    exact ⟨t, ht⟩

/-- Settles O6: every instruction, every step, and the step that waits. -/
theorem everyInstructionAndStepCompletes : Obligations.EveryInstructionAndStepCompletes :=
  ⟨exec_next, step_next, fun _ => step_of_input_nil⟩

/-! ## Links (R330) -/

theorem stepLink_of_none {links : List State} {k : Nat} (hk : links[k]? = none) : stepLink links k = .next links := by
  simp only [stepLink, hk]

theorem stepLink_of_some {links : List State} {k : Nat} {s t : State} (hk : links[k]? = some s)
    (hstep : step s = .next t) : stepLink links k = .next (links.set k t) := by
  simp only [stepLink, hk, hstep]

/-- Settles O59: without a link k nothing changes, and with one, its entry of the list alone. -/
theorem linksShareNoState : Obligations.LinksShareNoState := by
  intro links links' k hlinks
  cases hk : links[k]? with
  | none =>
    rw [stepLink_of_none hk] at hlinks
    cases hlinks
    exact ⟨rfl, fun _ _ => rfl, fun _ _ hs => by cases hs⟩
  | some s =>
    obtain ⟨t, ht⟩ := step_next s
    rw [stepLink_of_some hk ht] at hlinks
    cases hlinks
    obtain ⟨hlt, -⟩ := List.getElem?_eq_some_iff.1 hk
    refine ⟨List.length_set, fun j hj => List.getElem?_set_ne (Ne.symm hj), ?_⟩
    rintro _ t' ⟨⟩ ht'
    cases ht.symm.trans ht'
    exact List.getElem?_set_self hlt

/-! ## The peer (R328) -/

/-- The instructions a peer's bytes can make the block run: RXB and the three frames. -/
def IsPeerInstr (i : Instr) : Prop :=
  (∃ sop b, i = .rxb sop b) ∨ (∃ c, i = .recallFrame c) ∨ (∃ u c, i = .updateFrame u c) ∨ (∃ p c, i = .allFrame p c)

/-- All a peer's instruction can do: nothing, accept a byte, over a dropped partial frame or not, or complete a frame
(R141). -/
theorem reception_of_exec {i : Instr} {s t : State} (hi : IsPeerInstr i) (he : exec i s = .next t) :
    t = s ∨ (∃ b, t = s.acceptByte b) ∨ (∃ b, t = s.dropPartial.acceptByte b) ∨ ∃ f, t = s.completeFrame f := by
  have hframe {f : List Byte} (henc : encode i = .frame f) : t = s ∨ t = s.completeFrame f := by
    rw [exec_of_encode_frame henc] at he
    cases he
    by_cases hl : s.lstate = .failed
    · exact .inl (receiveWhole_of_failed hl f)
    · exact .inr (receiveWhole_of_not_failed hl f)
  rcases hi with ⟨sop, b, rfl⟩ | ⟨c, rfl⟩ | ⟨u, c, rfl⟩ | ⟨p, c, rfl⟩
  · simp only [exec, execRxb] at he
    split at he
    · cases he; exact .inl rfl
    · split at he <;> cases he
      · exact .inr (.inr (.inl ⟨b, rfl⟩))
      · exact .inr (.inl ⟨b, rfl⟩)
  all_goals exact (hframe rfl).imp_right fun h => .inr (.inr ⟨_, h⟩)

/-- The peer has done nothing to the link of s but, at most, answer its Recall: t has the failure record and the
power-up timer of s. -/
structure PeerKeepsLink (s t : State) : Prop where
  priorFail : t.priorFail = s.priorFail
  fcause : t.fcause = s.fcause
  puCnt : t.puCnt = s.puCnt
  lstate : t.lstate = s.lstate ∨ s.lstate = .awaitingRecallResponse ∧ t.lstate = .active

theorem PeerKeepsLink.refl (s : State) : PeerKeepsLink s s := ⟨rfl, rfl, rfl, .inl rfl⟩

/-- Of the cells of R223, the recall response alone moves the link, to Active (R226). -/
theorem peerKeepsLink_frameReceived (s : State) (fr : Frame) : PeerKeepsLink s (s.frameReceived fr) := by
  rcases frameReceived_cases s fr with ⟨-, e⟩ | ⟨-, -, e⟩ | ⟨-, -, e⟩ | ⟨-, -, e⟩ | ⟨hl, b, -, e⟩ |
    ⟨-, i, b, -, e⟩ | ⟨-, b, -, e⟩ <;> rw [e]
  case inr.inr.inr.inr.inl => exact ⟨by simp, by simp, by simp, .inr ⟨hl, recallResponse_lstate _ b⟩⟩
  all_goals exact ⟨by simp, by simp, by simp, .inl (by simp)⟩

theorem peerKeepsLink_completeFrame (s : State) (f : List Byte) : PeerKeepsLink s (s.completeFrame f) := by
  rcases completeFrame_cases s f with ⟨_, -, e⟩ | ⟨fr, -, e⟩ <;> rw [e]
  · exact ⟨by simp, by simp, by simp, .inl (by simp)⟩
  · exact { peerKeepsLink_frameReceived s.clearAsm fr with }

theorem peerKeepsLink_acceptByte (s : State) (b : Byte) : PeerKeepsLink s (s.acceptByte b) := by
  rcases acceptByte_cases s b with ⟨-, e⟩ | ⟨-, e⟩ <;> rw [e]
  · exact peerKeepsLink_completeFrame s _
  · exact { PeerKeepsLink.refl s with }

/-- To drop a partial frame is to report and count it, which is nothing to the link (R141). -/
theorem PeerKeepsLink.of_dropPartial {s t : State} (h : PeerKeepsLink s.dropPartial t) : PeerKeepsLink s t where
  priorFail := h.priorFail.trans (dropPartial_priorFail s)
  fcause := h.fcause.trans (dropPartial_fcause s)
  puCnt := h.puCnt.trans (dropPartial_puCnt s)
  lstate := by simpa using h.lstate

theorem peerKeepsLink_of_exec {i : Instr} {s t : State} (hi : IsPeerInstr i) (he : exec i s = .next t) :
    PeerKeepsLink s t := by
  rcases reception_of_exec hi he with rfl | ⟨b, rfl⟩ | ⟨b, rfl⟩ | ⟨f, rfl⟩
  · exact .refl t
  · exact peerKeepsLink_acceptByte s b
  · exact (peerKeepsLink_acceptByte s.dropPartial b).of_dropPartial
  · exact peerKeepsLink_completeFrame s f

/-- No byte or frame of the peer forgets a report or a failure, or writes configuration or staging (R328). -/
theorem extends_of_peer {i : Instr} {s t : State} (hi : IsPeerInstr i) (he : exec i s = .next t) : Extends s t := by
  have h := Extends.refl s
  rcases reception_of_exec hi he with rfl | ⟨b, rfl⟩ | ⟨b, rfl⟩ | ⟨f, rfl⟩
  · exact h
  · exact h.acceptByte b
  · exact h.dropPartial.acceptByte b
  · exact h.completeFrame f

theorem IsPeerInstr.ne_tick_reset {i : Instr} (hi : IsPeerInstr i) : i ≠ .tick ∧ i ≠ .reset := by
  rcases hi with ⟨_, _, rfl⟩ | ⟨_, rfl⟩ | ⟨_, _, rfl⟩ | ⟨_, _, rfl⟩ <;> exact ⟨nofun, nofun⟩

/-- Two states of one session that meet the invariant agree above its length, where every point is 0 (R38). -/
theorem Inv.points_above_eq {s t : State} (hs : Inv s) (ht : Inv t) (hsess : t.sess = s.sess) {k : Nat}
    (hk : s.len < k) (h128 : k ≤ 128) : pt t.v k = pt s.v k ∧ pt t.r k = pt s.r k := by
  have hlen : t.len < k := by rwa [State.len, hsess]
  exact ⟨(ht.vAbove k hlen h128).trans (hs.vAbove k hk h128).symm,
    (ht.rAbove k hlen h128).trans (hs.rAbove k hk h128).symm⟩

/-- Settles O56: point 16 by O53, the points above L by the invariant, what is recorded and configured by `Extends`, and
the link by the recall response being all a frame can do to it. -/
theorem peerAuthorityIsLimited : Obligations.PeerAuthorityIsLimited := by
  intro i s t hi he
  obtain ⟨hnt, hnr⟩ := IsPeerInstr.ne_tick_reset hi
  obtain ⟨h16, -⟩ := onlyTickAndResetWriteTheHealthBit i s t he
  have hext := extends_of_peer hi he
  have hlink := peerKeepsLink_of_exec hi he
  exact ⟨h16 hnt hnr, hext.cfg, hext.sess, hext.stg, hext.failCnt, hext.rptOvf, hlink.priorFail, hlink.fcause,
    hlink.puCnt, hlink.lstate, fun hs _ hk h128 => hs.points_above_eq (hs.exec he) hext.sess hk h128⟩

end Sys2Proof.Machine
end

section
/-! Power-on (spec/70_reset_and_hazards.md R350, R352): the reset table's power-on column, and the invariant in that
state. -/

namespace Sys2Proof.Machine

/-- Settles O47: each row of R350 is a field of `State.powerOn`, the parameters' rows through `ConfigRegs.powerOn`, of
which cfg and sess are two copies. -/
theorem powerOnValuesAreTheTable : Obligations.PowerOnValuesAreTheTable := by
  rintro p _ rfl
  simp only [State.powerOn, ConfigRegs.powerOn, and_self]

/-- Settles O49: the invariant at power-on holds for every parameter value, and the reset state is power-on at
`Config.params`. -/
theorem powerOnMeetsTheStateInvariant : Obligations.PowerOnMeetsTheStateInvariant :=
  ⟨inv_powerOn, inv_powerOn Config.params⟩

end Sys2Proof.Machine
end
